-- ==== Sys2Proof/Word.lean ====
section
/-! DEFINITION. The data the block moves (00_scope R13): bytes and byte strings, the 64-bit counter, the 32-bit
command word and the 2-bit sequencer code. -/

namespace Sys2Proof

/-- A byte, 0..255 (R13). -/
abbrev Byte := BitVec 8

/-- A byte string, index 0 first (R13). -/
abbrev Bytes := List Byte

/-- The counter's 64 bits (R7); its arithmetic wraps modulo 2^64. -/
abbrev Counter := BitVec 64

/-- A command word (30_encoding R71). -/
abbrev CommandWord := BitVec 32

/-- The sequencer's 2-bit code (10_state R31), which is also a micro-operation's code (30_encoding R76). -/
abbrev SeqCode := BitVec 2

end Sys2Proof
end

