-- ==== Sys2Proof/Config.lean ====
section
/-! DEFINITION. What is fixed for the hardware and not part of its state (00_scope section 4): the block size, the lane
width, the keystream primitive and its free answers. `Config.hardware` is the machine's own configuration; it is made of
opaque constants, so that what is proved of it holds for every block size, lane width and primitive. -/

namespace Sys2Proof

/-- How the primitive answers one call (R10, R124, 70_reset_and_hazards R236). -/
inductive Answer where
  /-- It returns a byte string of `n` bytes; a good answer exactly when `n` is the length asked for. -/
  | returns (n : Nat)
  /-- It reports a failure. -/
  | fails
  /-- It does not answer. -/
  | never
deriving DecidableEq, Repr, Inhabited

/-- The parameters of 00_scope section 4. -/
structure Config where
  /-- `B` (R5). -/
  blockSize : Nat
  /-- `W` (R11); no result depends on it (R173). -/
  laneWidth : Nat
  /-- Byte `i` of `KSF(length, nonce, key)` (R9), as a function of length, nonce, key and `i`. -/
  keystreamByte : Nat → Bytes → Bytes → Nat → Byte
  /-- The free answer of an engine's primitive to its call number `k` (R10), for the calls that `State.answers` does
  not list. -/
  freeAnswer : Nat → Nat → Answer

namespace Config

/-- `KEY_LEN` (R6), in bytes. -/
def keyLen : Nat := 32

/-- `IV_LEN` (R6), in bytes. -/
def ivLen : Nat := 8

/-- `ALG_TAG` (R8): the 11 bytes of "salsa20-ctr". -/
def algTag : Bytes := [0x73, 0x61, 0x6C, 0x73, 0x61, 0x32, 0x30, 0x2D, 0x63, 0x74, 0x72]

/-- `CW` (10_state R26): the width of CURSOR. -/
def cursorWidth (c : Config) : Nat := Nat.log2 c.blockSize + 1

/-- `B - 1`: opaque, so `B` is any number from 1 up (R5; log entry 2). -/
opaque blockSizeLessOne : Nat

/-- `W - 1`: opaque, so `W` is any number from 1 up (R11; log entry 16). -/
opaque laneWidthLessOne : Nat

/-- The bytes of the primitive's answers: opaque (R9; log entry 3). -/
opaque keystreamByteOf : Nat → Bytes → Bytes → Nat → Byte

/-- The free draw of each invocation, by engine and call number: opaque (R10; log entry 4). -/
opaque freeAnswerOf : Nat → Nat → Answer

/-- The configuration of the machine. -/
def hardware : Config :=
  { blockSize := blockSizeLessOne + 1
    laneWidth := laneWidthLessOne + 1
    keystreamByte := keystreamByteOf
    freeAnswer := freeAnswerOf }

end Config
end Sys2Proof
end

