-- ==== Sys2Proof/Machine/State.lean ====
section
/-! DEFINITION. The state of one engine, as plain data: the instance and the sequencer's working state (10_state R20),
and the three interfaces of 30_encoding R70 (what the host presents, what it was given, what the primitive was asked and
what it will answer). -/

namespace Sys2Proof.Machine

/-- The contents of KEY: 32 bytes (10_state R22). -/
structure Key where
  bytes : Bytes
  len : bytes.length = Config.keyLen
deriving DecidableEq, Repr

/-- 32 bytes of 00. -/
def Key.zeros : Key := ⟨List.replicate Config.keyLen 0, by simp⟩

/-- The architectural registers of one instance (10_state R20). -/
structure Instance where
  /-- VALID (R27). -/
  valid : Bool
  /-- FAILED (R28). -/
  failed : Bool
  /-- KEY (R22). -/
  key : Key
  /-- CTR (R23): the counter the next REFILL uses. -/
  ctr : Counter
  /-- KSBUF (R25). -/
  ksbuf : Bytes
  /-- CURSOR (R26): how many bytes of KSBUF are consumed. -/
  cursor : Nat
deriving DecidableEq, Repr

/-- The status of a result (30_encoding R75); `Status.code` gives its number. -/
inductive Status where
  | ok
  | unsupportedAlgorithm
  | invalidKeyLength
  | invalidNonceLength
  | keystreamGenerationFailure
  | illegalCommand
  | noInstance
deriving DecidableEq, Repr

/-- A result `(STATUS, OUT)` (R75). -/
structure Result where
  status : Status
  out : Bytes
deriving DecidableEq, Repr

/-- A request presented to the primitive (30_encoding R70, 41_refill R121). -/
structure Request where
  length : Nat
  nonce : Bytes
  key : Bytes
deriving DecidableEq, Repr

/-- What the outside presents to the engine: a command word with its operands (R70, R73), or reset
(70_reset_and_hazards R230). -/
inductive Input where
  | command (word : CommandWord) (operands : List Bytes)
  | reset
deriving DecidableEq, Repr

/-- The state of one engine. -/
structure State where
  /-- The instance's registers (R20). -/
  inst : Instance
  /-- SEQ (R31). -/
  seq : SeqCode
  /-- REM (R32): the input still to be combined. -/
  rem : Bytes
  /-- OUTACC (R32): the output so far. -/
  outacc : Bytes
  /-- SNAP (R33): empty, or the registers as they were when the running command was accepted. -/
  snap : Option Instance
  /-- The primitive was called and has not answered (70_reset_and_hazards R236; log entry 5). -/
  waiting : Bool
  /-- What the host presents, next first (20_memory R60; log entry 6). -/
  inputs : List Input
  /-- The results delivered, oldest first (60_exceptions R202; log entry 6). -/
  results : List Result
  /-- The requests presented to the primitive, oldest first (20_memory R69; log entry 6). -/
  requests : List Request
  /-- The primitive's coming answers that are known, next first; the answers after them are free (log entry 4). -/
  answers : List Answer
  /-- Which engine of a platform this is (log entry 15). -/
  engine : Nat
deriving DecidableEq, Repr

/-- The codes of SEQ (R31); `11` is never entered. -/
def Seq.idle : SeqCode := 0b00#2
def Seq.combine : SeqCode := 0b01#2
def Seq.refill : SeqCode := 0b10#2

/-- Why a step stops. Both are states that the rules never reach (60_exceptions R208), and no run from reset does. -/
inductive Fault where
  /-- SEQ holds `11` (10_state R31, 60_exceptions R208); raised by the step. Safe: the spec says that a model faults. -/
  | seqUnused
  /-- A COMBINE sees CURSOR = B, or more than its register holds (60_exceptions R208); raised by COMBINE. Safe: the spec
  says that a model faults. -/
  | combineAtBlockEnd
deriving DecidableEq, Repr

/-- Why an instruction has no meaning. -/
inductive Refusal where
  /-- The instruction has no meaning in this model; raised by exec's arm for it. Safe: nothing can be proved of it. No
  arm of this model does so. -/
  | notModelled (mnemonic : String)
deriving DecidableEq, Repr

/-- The registers after reset (10_state R40): VALID and FAILED are 0; KEY, CTR, KSBUF and CURSOR, which R40 leaves
unspecified, are zero (DESIGN CHOICE, log entry 1). -/
def Instance.reset : Instance :=
  { valid := false, failed := false, key := .zeros, ctr := 0
    ksbuf := List.replicate Config.hardware.blockSize 0, cursor := 0 }

/-- The machine right after reset (10_state R40, 70_reset_and_hazards R230). -/
def State.reset : State :=
  { inst := .reset, seq := Seq.idle, rem := [], outacc := [], snap := none, waiting := false
    inputs := [], results := [], requests := [], answers := [], engine := 0 }

end Sys2Proof.Machine
end

