-- ==== Sys2Proof/Machine/Flags.lean ====
section
/-! DEFINITION. The two flags and who writes them (10_state R27, R28), and the status codes (30_encoding R75). -/

namespace Sys2Proof.Machine

/-- What a successful NEW writes (40_construction R100): `FAILED <- 0`, `VALID <- 1`. -/
def Instance.markConstructed (r : Instance) : Instance := { r with valid := true, failed := false }

/-- What a failure of the primitive inside an UPDATE writes (42_update R146): `FAILED <- 1`. -/
def Instance.markFailed (r : Instance) : Instance := { r with failed := true }

/-- The 4-bit code of a status (R75). -/
def Status.code : Status → BitVec 4
  | .ok => 0x0
  | .unsupportedAlgorithm => 0x1
  | .invalidKeyLength => 0x2
  | .invalidNonceLength => 0x3
  | .keystreamGenerationFailure => 0x4
  | .illegalCommand => 0x5
  | .noInstance => 0x6

/-- The status of a code; `none` for the codes never returned (R75). -/
def Status.ofCode (k : BitVec 4) : Option Status :=
  [Status.ok, .unsupportedAlgorithm, .invalidKeyLength, .invalidNonceLength, .keystreamGenerationFailure,
    .illegalCommand, .noInstance].find? fun st => st.code = k

end Sys2Proof.Machine
end

