-- ==== Sys2Proof/Machine/Operands.lean ====
section
/-! DEFINITION. Operands and byte order: little-endian conversion (00_scope R14), the seed (20_memory R50), the nonce
bytes (R51), and NEW's checks of its operands in their order (40_construction R101, R105). -/

namespace Sys2Proof.Machine

/-- The number whose little-endian bytes are `b` (R14): the sum of `b[i] * 2^(8*i)`. -/
def leNat : Bytes → Nat
  | [] => 0
  | b :: bs => b.toNat + 256 * leNat bs

/-- The `n` low bytes of `x`, least significant first (R14): `b[i] = (x >> (8*i)) mod 256`. -/
def leBytes (n x : Nat) : Bytes := (List.range n).map fun i => BitVec.ofNat 8 (x >>> (8 * i))

/-- `from_le64` (R14, R50). -/
def fromLe64 (b : Bytes) : Counter := BitVec.ofNat 64 (leNat b)

/-- `le64` (R14, R51). -/
def le64 (x : Counter) : Bytes := leBytes 8 x.toNat

/-- NEW's checks (40_construction R101): the tag, then the key's length, then the IV's; what passes is the key and the
seed. -/
def newOperands (tag key iv : Bytes) : Except Status (Key × Counter) :=
  if tag = Config.algTag then
    if h : key.length = Config.keyLen then
      if iv.length = Config.ivLen then .ok (⟨key, h⟩, fromLe64 iv)
      else .error .invalidNonceLength
    else .error .invalidKeyLength
  else .error .unsupportedAlgorithm

end Sys2Proof.Machine
end

