-- ==== Sys2Proof/Machine/Ops.lean ====
section
/-! DEFINITION. The operations the meanings share: accepting a command, delivering a result, raising an error, calling
the primitive, writing and reading the keystream buffer, the XOR, and the sequencer's transitions. Each takes the
configuration it needs, so that it can be run on a concrete one. -/

namespace Sys2Proof.Machine

/-! ## The keystream -/

/-- `KSF(length, nonce, key)` (00_scope R9): a byte string of exactly `length` bytes. -/
def ksf (c : Config) (length : Nat) (nonce key : Bytes) : Bytes :=
  (List.range length).map (c.keystreamByte length nonce key)

/-- The block of a counter value: `KSF(B, le64(ctr), KEY)` (41_refill R121). -/
def blockOf (c : Config) (ctr : Counter) (key : Key) : Bytes := ksf c c.blockSize (le64 ctr) key.bytes

/-! ## Commands and results -/

/-- Accepting a command: `SNAP <- (VALID, FAILED, KEY, CTR, KSBUF, CURSOR)` (40_construction R100, 42_update R140). -/
def State.accept (s : State) : State := { s with snap := some s.inst, waiting := false }

/-- `return (status, out)` (00_scope R16): the command ends, its working state is emptied and its one result is
delivered (60_exceptions R202, 10_state R31 to R33). -/
def State.deliver (status : Status) (out : Bytes) (s : State) : State :=
  { s with
    seq := Seq.idle, rem := [], outacc := [], snap := none, waiting := false
    results := s.results ++ [⟨status, out⟩] }

/-- `raise <Error>` (60_exceptions R205), the one entry of every error: (1) the registers are restored from SNAP (log
entry 10 for an empty SNAP), (2) FAILED is set where `marksFailed` says so, (3) to (5) the working state is discarded,
SEQ goes to IDLE and `(code, [])` is returned. -/
def State.raise (status : Status) (marksFailed : Bool) (s : State) : State :=
  let restored := s.snap.getD s.inst
  State.deliver status [] { s with inst := if marksFailed then restored.markFailed else restored }

/-- An ILLEGAL command (60_exceptions R207): not executed; only its result is delivered. -/
def State.rejectCommand (s : State) : State := s.deliver .illegalCommand []

/-- Reset (70_reset_and_hazards R230): every register takes its reset value and a command in progress is abandoned
without a result. What the outside holds stays (log entry 9). -/
def State.afterReset (s : State) (rest : List Input) : State :=
  { State.reset with
    inputs := rest, results := s.results, requests := s.requests, answers := s.answers, engine := s.engine }

/-! ## The primitive -/

/-- The answer to the call that comes `j` calls from now: listed, or free (00_scope R10; log entry 4). -/
def State.answerAt (c : Config) (s : State) (j : Nat) : Answer :=
  (s.answers[j]?).getD (c.freeAnswer s.engine (s.requests.length + j))

/-- The request REFILL presents (41_refill R121): `(B, le64(CTR), KEY)`. -/
def State.request (c : Config) (s : State) : Request := ⟨c.blockSize, le64 s.inst.ctr, s.inst.key.bytes⟩

/-- The state once the primitive is called, exactly once (41_refill R125): the request is presented, the next answer is
taken, and the engine waits if there is none (70_reset_and_hazards R236). -/
def State.called (c : Config) (s : State) : State :=
  { s with
    requests := s.requests ++ [s.request c], answers := s.answers.drop 1
    waiting := s.answerAt c 0 = .never }

/-- The block an answer brings, or `none` for a failure: a string whose length is not `B` is a failure too, and no part
of it is used (41_refill R124). -/
def receive (c : Config) (r : Request) : Answer → Option Bytes
  | .returns n =>
    let string := ksf c n r.nonce r.key
    if string.length = r.length then some string else none
  | .fails => none
  | .never => none

/-- The writes of a successful REFILL (41_refill R122, R123): the whole buffer, `CURSOR <- 0`,
`CTR <- (CTR + 1) mod 2^64`. -/
def Instance.loadBlock (block : Bytes) (r : Instance) : Instance :=
  { r with ksbuf := block, cursor := 0, ctr := r.ctr + 1 }

/-- The one run of REFILL (41_refill R120): calls the primitive and, if it answers, either loads its block or raises
`KeystreamGenerationFailure`, with FAILED set where `marksFailed` says so. Without an answer the engine waits. -/
def State.refill (c : Config) (marksFailed : Bool) (s : State) : State :=
  let t := s.called c
  match s.answerAt c 0 with
  | .never => t
  | a =>
    match receive c (s.request c) a with
    | some block => { t with inst := t.inst.loadBlock block }
    | none => t.raise .keystreamGenerationFailure marksFailed

/-! ## The combine unit -/

/-- The XOR of byte strings, byte by byte (00_scope R15, 43_combine R174). -/
def xorBytes (d k : Bytes) : Bytes := List.zipWith (· ^^^ ·) d k

/-- `KsRead(i, n)` (00_scope R16): `KSBUF[i : i+n]`. -/
def Instance.ksRead (r : Instance) (i n : Nat) : Bytes := (r.ksbuf.drop i).take n

/-- The number of bytes the next COMBINE takes (43_combine R170): `min(B - CURSOR, len(REM))`. -/
def State.chunkLength (c : Config) (s : State) : Nat := min (c.blockSize - s.inst.cursor) s.rem.length

/-- The writes of COMBINE (43_combine R170). -/
def State.combineChunk (c : Config) (s : State) : State :=
  let n := s.chunkLength c
  { s with
    outacc := s.outacc ++ xorBytes (s.rem.take n) (s.inst.ksRead s.inst.cursor n)
    inst := { s.inst with cursor := s.inst.cursor + n }
    rem := s.rem.drop n }

/-! ## The sequencer's transitions -/

/-- UPDATE's last lines (42_update R140): the accumulated output is returned. -/
def State.finish (s : State) : State := s.deliver .ok s.outacc

/-- What follows a micro-operation (42_update R144): after a COMBINE, a REFILL if `CURSOR = B`, else the end; after a
REFILL, the end if `REM = []`, else a COMBINE. Nothing follows an error (SEQ is IDLE) or a call without an answer. -/
def State.advance (c : Config) (s : State) : State :=
  if s.waiting then s
  else if s.seq = Seq.combine then
    if s.inst.cursor = c.blockSize then { s with seq := Seq.refill } else s.finish
  else if s.seq = Seq.refill then
    if s.rem = [] then s.finish else { s with seq := Seq.combine }
  else s

/-- The sequencer's transition after whatever a micro-operation answers. -/
def sequenced (c : Config) : Host.Outcome State Fault Refusal → Host.Outcome State Fault Refusal
  | .next t => .next (t.advance c)
  | .fault f => .fault f
  | .refused r => .refused r

end Sys2Proof.Machine
end

