-- ==== Sys2Proof/Machine/New.lean ====
section
/-! DEFINITION. NEW (40_construction R100). -/

namespace Sys2Proof.Machine

/-- What NEW writes once its operands are accepted (R100): `KEY <- KEY_OP`, `CTR <- seed`; a REFILL is next (SEQ during
NEW: log entry 5). -/
def State.loadSeed (key : Key) (seed : Counter) (s : State) : State :=
  { s with inst := { s.inst with key := key, ctr := seed }, seq := Seq.refill }

/-- NEW's last lines (R100): `FAILED <- 0`, `VALID <- 1`, `return (OK, [])`. -/
def State.constructed (s : State) : State := State.deliver .ok [] { s with inst := s.inst.markConstructed }

/-- What follows NEW's REFILL: nothing after an error (SEQ is IDLE) or a call without an answer, else the last lines. -/
def State.afterFirstRefill (s : State) : State :=
  if s.waiting then s else if s.seq = Seq.refill then s.constructed else s

/-- NEW (R100), whatever its direction (R104). A failure of the first REFILL sets no flag (R107, R108). -/
def newCommand (c : Config) (tag key iv : Bytes) (s : State) : State :=
  match newOperands tag key iv with
  | .error status => s.accept.raise status false
  | .ok (k, seed) => ((s.accept.loadSeed k seed).refill c false).afterFirstRefill

/-- NEW (R100). -/
def execNew (_dir : Direction) (tag key iv : Bytes) (s : State) : Host.Outcome State Fault Refusal :=
  .next (newCommand Config.hardware tag key iv s)

end Sys2Proof.Machine
end

