-- ==== Sys2Proof/Machine/Combine.lean ====
section
/-! DEFINITION. COMBINE (43_combine R170), the micro-operation of SEQ = 01. -/

namespace Sys2Proof.Machine

/-- COMBINE (R170). With `CURSOR = B` there is nothing to read, and a model that reaches such a state faults
(60_exceptions R208; log entry 12). -/
def combineOp (c : Config) (s : State) : Host.Outcome State Fault Refusal :=
  if s.inst.cursor < c.blockSize then .next (s.combineChunk c) else .fault .combineAtBlockEnd

/-- COMBINE (R170). -/
def execCombine (s : State) : Host.Outcome State Fault Refusal := combineOp Config.hardware s

end Sys2Proof.Machine
end

