-- ==== Sys2Proof/Machine/Refill.lean ====
section
/-! DEFINITION. REFILL (41_refill R120), the micro-operation of SEQ = 10. -/

namespace Sys2Proof.Machine

/-- REFILL as the sequencer runs it, that is inside an UPDATE (42_update R144, R146): a failure marks the instance
failed. -/
def refillOp (c : Config) (s : State) : Host.Outcome State Fault Refusal := .next (s.refill c true)

/-- REFILL (R120). -/
def execRefill (s : State) : Host.Outcome State Fault Refusal := refillOp Config.hardware s

end Sys2Proof.Machine
end

