-- ==== Sys2Proof/Machine/Update.lean ====
section
/-! DEFINITION. UPDATE (42_update R140) and the sequencer's loop (R144). -/

namespace Sys2Proof.Machine

/-- One round of the loop (R144): the micro-operation that SEQ names, and the transition after it. -/
def microStep (c : Config) (s : State) : Host.Outcome State Fault Refusal :=
  if s.seq = Seq.combine then sequenced c (combineOp c s)
  else if s.seq = Seq.refill then sequenced c (refillOp c s)
  else .fault .seqUnused

/-- The loop (R144), at most `n` rounds: it ends when SEQ is IDLE, and stands still while the primitive does not
answer. -/
def runSequencer (c : Config) : Nat → State → Host.Outcome State Fault Refusal
  | 0, s => .next s
  | n + 1, s =>
    if s.waiting || s.seq = Seq.idle then .next s
    else
      match microStep c s with
      | .next t => runSequencer c n t
      | .fault f => .fault f
      | .refused r => .refused r

/-- The start of the loop (R140): `REM <- DATA`, `OUTACC <- []`, `SEQ <- COMBINE`. -/
def State.startUpdate (data : Bytes) (s : State) : State :=
  { s.accept with rem := data, outacc := [], seq := Seq.combine }

/-- The rounds an UPDATE of `n` bytes can take: every COMBINE takes a byte at least, and a REFILL follows a COMBINE
(R147; log entry 14). -/
def roundBound (n : Nat) : Nat := 2 * n

/-- UPDATE (R140): no instance (R141), a failed one (R142), empty data (R143), else the loop. -/
def updateCommand (c : Config) (data : Bytes) (s : State) : Host.Outcome State Fault Refusal :=
  if s.inst.valid = false then .next (s.accept.raise .noInstance false)
  else if s.inst.failed then .next (s.accept.raise .keystreamGenerationFailure false)
  else if data = [] then .next (s.accept.deliver .ok [])
  else runSequencer c (roundBound data.length) (s.startUpdate data)

/-- UPDATE (R140). -/
def execUpdate (data : Bytes) (s : State) : Host.Outcome State Fault Refusal :=
  updateCommand Config.hardware data s

end Sys2Proof.Machine
end

