-- ==== Sys2Proof/Syntax.lean ====
section
/-! DEFINITION. The operations of spec/opcode_table.json, one constructor per row, and the two encoded forms they have:
a command word with its operand strings (30_encoding R71, R73) and a micro-operation's code (R76). -/

namespace Sys2Proof

/-- NEW's `DIR` bit (R71); decoded, then ignored (40_construction R104). -/
inductive Direction where
  | encrypt
  | decrypt
deriving DecidableEq, Repr

/-- The four operations. NEW and UPDATE are the host's commands; COMBINE and REFILL are the sequencer's
micro-operations, which no command word encodes (R76). -/
inductive Instr where
  /-- NEW (40_construction R100), with the operand strings `TAG`, `KEY`, `IV`, each of any length (R73). -/
  | new (dir : Direction) (tag key iv : Bytes)
  /-- UPDATE (42_update R140), with the operand string `DATA`, of any length (R73). -/
  | update (data : Bytes)
  /-- COMBINE (43_combine R170). -/
  | combine
  /-- REFILL (41_refill R120). -/
  | refill
deriving DecidableEq, Repr

/-- What a decoder is given: a presented command (its word, and its operands in order, R73), or the code of a
micro-operation in SEQ (R76). -/
inductive Encoded where
  | command (word : CommandWord) (operands : List Bytes)
  | uop (code : SeqCode)
deriving DecidableEq, Repr

end Sys2Proof
end

