-- ==== Sys2Proof/Machine/Dispatch.lean ====
section
/-! DEFINITION. One arm per operation of spec/opcode_table.json, each a direct call of its meaning. -/

namespace Sys2Proof.Machine

def exec (i : Instr) (s : State) : Host.Outcome State Fault Refusal :=
  match i with
  | .new dir tag key iv => Sys2Proof.Machine.execNew dir tag key iv s
  | .update data => Sys2Proof.Machine.execUpdate data s
  | .combine => Sys2Proof.Machine.execCombine s
  | .refill => Sys2Proof.Machine.execRefill s

end Sys2Proof.Machine
end

