-- ==== Sys2Proof/WellFormed.lean ====
section
/-! DEFINITION. When an encoded operation is legal, said by its fields (30_encoding R71, R73, R76, R77) and without the
decoder; and which operations a host may issue (R76). -/

namespace Sys2Proof

/-- `OPC`, bits 3:0 (R71). -/
def CommandWord.opc (w : CommandWord) : BitVec 4 := w.extractLsb' 0 4

/-- `DIR`, bit 4 (R71). -/
def CommandWord.dir (w : CommandWord) : Bool := w.getLsbD 4

/-- `RSV`, bits 31:5 (R71). -/
def CommandWord.rsv (w : CommandWord) : BitVec 27 := w.extractLsb' 5 27

/-- The number of operands of an operation code (R73); `none` for a reserved code (R77). -/
def operandCount (opc : BitVec 4) : Option Nat :=
  if opc = 0b0001#4 then some 3 else if opc = 0b0010#4 then some 1 else none

/-- The operation code is NEW's or UPDATE's (R71, R77). -/
def CommandWord.opcKnown (w : CommandWord) : Bool := (operandCount w.opc).isSome

/-- UPDATE has `DIR = 0` (R71, R77). -/
def CommandWord.dirAllowed (w : CommandWord) : Bool := w.opc != 0b0010#4 || !w.dir

/-- The reserved bits are zero (R71, R77). -/
def CommandWord.reservedZero (w : CommandWord) : Bool := w.rsv == 0

/-- The command carries as many operands as its operation takes (R73). -/
def operandsMatch (w : CommandWord) (operands : List Bytes) : Bool :=
  operandCount w.opc == some operands.length

/-- A code of SEQ that is a micro-operation (R76): `01` or `10`. -/
def SeqCode.isUop (code : SeqCode) : Bool := code == 0b01#2 || code == 0b10#2

/-- Every check of R71, R73, R76 and R77. -/
def Encoded.wellFormed : Encoded → Bool
  | .command w operands => w.opcKnown && w.dirAllowed && w.reservedZero && operandsMatch w operands
  | .uop code => code.isUop

/-- The operations a host can issue: NEW and UPDATE, never a micro-operation (R76). -/
def Instr.hostIssuable : Instr → Bool
  | .new _ _ _ _ => true
  | .update _ => true
  | .combine => false
  | .refill => false

end Sys2Proof
end

