-- ==== Sys2Proof/Decode.lean ====
section
/-! DEFINITION. The decoder, total on every command word with any operands and on every code of SEQ (30_encoding R72,
R76), rejecting by name; after it the encoder (R71, R73, R76), and the decoder read through the numbering of
spec/opcode_table.json. -/

namespace Sys2Proof

/-- Why a presented command or a code is no operation (R77). A rejected command is ILLEGAL, whichever the reason. -/
inductive Rejection where
  /-- A bit of `RSV` is set. -/
  | reservedBits
  /-- UPDATE with `DIR = 1`. -/
  | directionOnUpdate
  /-- An operation code that R71 does not give. -/
  | reservedOpcode
  /-- Another number of operands than the operation takes (R73). -/
  | operandCount
  /-- A code of SEQ that is no micro-operation (R76). -/
  | notMicroOp
deriving DecidableEq, Repr

/-- `DIR` (R71): 0 encrypt, 1 decrypt. -/
def Direction.ofBit (b : Bool) : Direction := if b then .decrypt else .encrypt

/-- The name under which an ILLEGAL word is rejected. -/
def rejectionOf (w : CommandWord) : Rejection :=
  if w.rsv != 0 then .reservedBits
  else if w.opc = 0b0010#4 then .directionOnUpdate
  else .reservedOpcode

/-- The operands of NEW, in their order (R73). -/
def decodeNew (dir : Direction) : List Bytes → Except Rejection Instr
  | [tag, key, iv] => .ok (.new dir tag key iv)
  | _ => .error .operandCount

/-- The operand of UPDATE (R73). -/
def decodeUpdate : List Bytes → Except Rejection Instr
  | [data] => .ok (.update data)
  | _ => .error .operandCount

/-- R72, line by line. -/
def decodeCommand (w : CommandWord) (operands : List Bytes) : Except Rejection Instr :=
  if w &&& 0xFFFFFFEF#32 = 0x00000001#32 then decodeNew (.ofBit w.dir) operands
  else if w = 0x00000002#32 then decodeUpdate operands
  else .error (rejectionOf w)

/-- R76: the micro-operation of a code of SEQ. -/
def decodeUop (code : SeqCode) : Except Rejection Instr :=
  if code = 0b01#2 then .ok .combine
  else if code = 0b10#2 then .ok .refill
  else .error .notMicroOp

/-- The decoder. -/
def decode : Encoded → Except Rejection Instr
  | .command w operands => decodeCommand w operands
  | .uop code => decodeUop code

/-- The command word of NEW (R71). -/
def newWord : Direction → CommandWord
  | .encrypt => 0x00000001#32
  | .decrypt => 0x00000011#32

/-- The encoder: the command words of R71 with the operands in the order of R73, and the codes of R76. -/
def encode : Instr → Encoded
  | .new dir tag key iv => .command (newWord dir) [tag, key, iv]
  | .update data => .command 0x00000002#32 [data]
  | .combine => .uop 0b01#2
  | .refill => .uop 0b10#2

/-- Operand strings with no bit set: as many empty strings as the word's operation takes (log entry 7). -/
def emptyOperands (w : CommandWord) : List Bytes := List.replicate ((operandCount w.opc).getD 0) []

/-- A row's bits as the decoder takes them: up to 8 bits are a micro-operation's code (the table's format `uop`), more
are a command word (format `cmd32`) with empty operands (log entry 7); `none` for bits that neither format has. -/
def tableEncoded (nbits w : Nat) : Option Encoded :=
  if nbits ≤ 8 then
    if w < 4 then some (.uop (BitVec.ofNat 2 w)) else none
  else if w < 2 ^ 32 then some (.command (BitVec.ofNat 32 w) (emptyOperands (BitVec.ofNat 32 w)))
  else none

/-- What the decoder reads from a row's bits. -/
def decodeTableWord (nbits w : Nat) : Option Instr :=
  match tableEncoded nbits w with
  | some e => (decode e).toOption
  | none => none

end Sys2Proof
end

