-- ==== Sys2Proof/Machine/Fetch.lean ====
section
/-! DEFINITION. What the engine does next, and how an operation is put where it is taken from. The block has no program
counter (10_state R24): between commands it takes the host's next command (20_memory R60), within a command the
micro-operation that SEQ names (10_state R31), and reset before either (70_reset_and_hazards R230). -/

namespace Sys2Proof.Machine

/-- What is taken next, with the inputs that stay. -/
inductive Fetched where
  /-- Reset is asserted (R230). -/
  | reset (rest : List Input)
  /-- Nothing: no command is presented, or the primitive has not answered (R236). -/
  | wait
  /-- A command is accepted. -/
  | command (word : CommandWord) (operands : List Bytes) (rest : List Input)
  /-- The running command's next micro-operation. -/
  | microOp (code : SeqCode)
deriving DecidableEq, Repr

/-- What the engine does next when reset is not asserted, `idle` being what it does between commands. -/
def fetchRunning (s : State) (idle : Fetched) : Fetched :=
  if s.waiting then .wait else if s.seq = Seq.idle then idle else .microOp s.seq

/-- What the engine does next. A reset is taken when it stands first in `inputs`, and then before anything else; one that
is listed behind a command is taken after that command, and not at all while the command cannot start (DESIGN CHOICE,
log entry 9). -/
def fetch (s : State) : Fetched :=
  match s.inputs with
  | .reset :: rest => .reset rest
  | [] => fetchRunning s .wait
  | .command w operands :: rest => fetchRunning s (.command w operands rest)

/-- A command word with its operands, presented as the next thing the engine takes. -/
def placeCommand (w : CommandWord) (operands : List Bytes) (s : State) : State :=
  { s with seq := Seq.idle, waiting := false, inputs := .command w operands :: s.inputs }

/-- A micro-operation as the next thing the engine does: SEQ names it, a command is running (SNAP is held), no call is
open and no reset is asserted. -/
def placeMicroOp (code : SeqCode) (s : State) : State :=
  { s with
    seq := code, waiting := false, snap := s.snap.or (some s.inst)
    inputs := s.inputs.dropWhile (· = .reset) }

/-- An encoded operation, placed. -/
def placeEncoded (e : Encoded) (s : State) : State :=
  match e with
  | .command w operands => placeCommand w operands s
  | .uop code => placeMicroOp code s

end Sys2Proof.Machine
end

