-- ==== Sys2Proof/Machine/Step.lean ====
section
/-! DEFINITION. The step. Between commands one step is one whole command (00_scope R2); in a state inside a command one
step is one micro-operation (42_update R144; log entry 8). -/

namespace Sys2Proof.Machine

def step (s : State) : Host.Outcome State Fault Refusal :=
  match fetch s with
  | .reset rest => .next (s.afterReset rest)
  | .wait => .next s
  | .command w operands rest =>
    match decode (.command w operands) with
    | .ok i => exec i { s with inputs := rest }
    | .error _ => .next (State.rejectCommand { s with inputs := rest })
  | .microOp code =>
    match decode (.uop code) with
    | .ok i => sequenced Config.hardware (exec i s)
    | .error _ => .fault .seqUnused

/-- `s` with a table row's bits where the next step takes its operation from (log entry 7); `s` itself for bits that no
row's format has. -/
def State.withFetchWord (s : State) (nbits w : Nat) : State :=
  match tableEncoded nbits w with
  | some e => placeEncoded e s
  | none => s

end Sys2Proof.Machine
end

