-- ==== Sys2Proof/Machine/Lanes.lean ====
section
/-! DEFINITION. The combine unit's wide path (00_scope R11, 20_memory R56, 43_combine R173, R175): the same XOR, `W` bytes
at once. No result depends on it, so COMBINE uses `xorBytes` and the state holds no strategy (R175; log entry 16). -/

namespace Sys2Proof.Machine

/-- One group of bytes as one wide XOR: byte `i` of the data group stays paired with byte `i` of the keystream group
(20_memory R54). -/
def xorGroup (d k : Bytes) : Bytes := leBytes d.length (leNat d ^^^ leNat k)

/-- At most `rounds` groups of `w` bytes, and the remainder byte by byte (R173). -/
def xorGroups (w : Nat) : Nat → Bytes → Bytes → Bytes
  | 0, d, k => xorBytes d k
  | rounds + 1, d, k =>
    if d.length < w then xorBytes d k
    else xorGroup (d.take w) (k.take w) ++ xorGroups w rounds (d.drop w) (k.drop w)

/-- The combiner of lane width `w` (R173). -/
def xorLanes (w : Nat) (d k : Bytes) : Bytes := xorGroups w d.length d k

/-- The accelerated strategy (20_memory R56): the wide path where both lengths are divisible by 4, or by 2, and the byte
path otherwise. -/
def xorAccelerated (d k : Bytes) : Bytes :=
  if d.length % 4 = 0 ∧ k.length % 4 = 0 then xorLanes 4 d k
  else if d.length % 2 = 0 ∧ k.length % 2 = 0 then xorLanes 2 d k
  else xorBytes d k

end Sys2Proof.Machine
end

