-- ==== Sys2Proof/Machine/Platform.lean ====
section
/-! DEFINITION. A platform of several engines (00_scope R12, 20_memory R63, 60_exceptions R212). How a host selects an
engine is the platform's; here it is an index. -/

namespace Sys2Proof.Machine

/-- The engines of a platform, each with its own state. -/
abbrev Platform := List State

/-- `n` engines after reset, each with its own primitive (log entry 15). -/
def Platform.reset (n : Nat) : Platform := (List.range n).map fun k => { State.reset with engine := k }

/-- What an engine is after it is given a step; one that stops stays where it is (log entry 15). -/
def State.afterStep (s : State) : State :=
  match step s with
  | .next t => t
  | .fault _ => s
  | .refused _ => s

/-- A step of engine `k`. -/
def Platform.stepEngine (k : Nat) (p : Platform) : Platform := p.modify k State.afterStep

/-- Steps of the engines of a schedule, in its order: any interleaving of the engines' steps (R63). -/
def Platform.run : List Nat → Platform → Platform
  | [], p => p
  | k :: ks, p => Platform.run ks (p.stepEngine k)

/-- `n` steps of one engine by itself. -/
def State.afterSteps : Nat → State → State
  | 0, s => s
  | n + 1, s => State.afterSteps n s.afterStep

end Sys2Proof.Machine
end

