-- ==== Sys2Proof/Safety.lean ====
section
/-! DEFINITION. The terms the claims use: what stands between commands, the state invariant, the keystream ahead of the
cursor, the state after a number of bytes, and a stream fed piece by piece. -/

namespace Sys2Proof.Machine

/-- Between commands: SEQ is IDLE, the working state is empty (10_state R31 to R33) and no call is open. -/
structure State.Idle (s : State) : Prop where
  seq : s.seq = Seq.idle
  rem : s.rem = []
  outacc : s.outacc = []
  snap : s.snap = none
  waiting : s.waiting = false

/-- A valid instance that has not failed: UPDATE's checks pass (42_update R141, R142). -/
structure Instance.Live (r : Instance) : Prop where
  valid : r.valid = true
  failed : r.failed = false

/-- The registers' sizes: KSBUF has `B` bytes and CURSOR is at most `B` (10_state R25, R26). -/
structure Instance.Sized (c : Config) (r : Instance) : Prop where
  ksbuf : r.ksbuf.length = c.blockSize
  cursor : r.cursor ≤ c.blockSize

/-- KSBUF is the block of counter value `CTR - 1` (10_state R23). -/
def Instance.Fresh (c : Config) (r : Instance) : Prop := r.ksbuf = blockOf c (r.ctr - 1) r.key

/-- The registers between commands (10_state R23, R26, R28). -/
structure Instance.AtRest (c : Config) (r : Instance) : Prop where
  sized : r.Sized c
  cursor : r.valid = true → r.cursor < c.blockSize
  fresh : r.valid = true → r.Fresh c
  failed : r.failed = true → r.valid = true

/-- The registers and the working state inside an UPDATE: SNAP holds the registers of acceptance, and SEQ says which
micro-operation is next (42_update R144, R147). -/
structure State.InUpdate (c : Config) (s : State) : Prop where
  snap : ∃ r, s.snap = some r ∧ r.AtRest c ∧ r.Live ∧ r.key = s.inst.key
  live : s.inst.Live
  sized : s.inst.Sized c
  fresh : s.inst.Fresh c
  next : (s.seq = Seq.combine ∧ s.inst.cursor < c.blockSize ∧ s.rem ≠ []) ∨
    (s.seq = Seq.refill ∧ s.inst.cursor = c.blockSize)

/-- A command whose call of the primitive was never answered (70_reset_and_hazards R236). -/
structure State.Hung (c : Config) (s : State) : Prop where
  waiting : s.waiting = true
  seq : s.seq = Seq.refill
  snap : ∃ r, s.snap = some r ∧ r.AtRest c
  sized : s.inst.Sized c

/-- The invariant of every state that a run reaches. -/
def State.Inv (c : Config) (s : State) : Prop :=
  (s.Idle ∧ s.inst.AtRest c) ∨ (s.waiting = false ∧ s.InUpdate c) ∨ s.Hung c

/-- The first `k` coming answers of the primitive are strings of the length asked for: no failure is drawn. -/
def State.AnswersGood (c : Config) (s : State) (k : Nat) : Prop := ∀ j < k, s.answerAt c j = .returns c.blockSize

/-- The call that comes `j` calls from now fails (41_refill R124): by a reported failure, or by a string of another
length than asked for. -/
def State.CallFails (c : Config) (s : State) (j : Nat) : Prop :=
  s.answerAt c j = .fails ∨ ∃ n, n ≠ c.blockSize ∧ s.answerAt c j = .returns n

/-- How many block boundaries `n` bytes from the cursor on reach: `floor((p + n) / B)` (42_update R149). -/
def Instance.boundaries (c : Config) (r : Instance) (n : Nat) : Nat := (r.cursor + n) / c.blockSize

/-- The keystream from the cursor on, over the buffer and the next `k` blocks (42_update R149). -/
def Instance.upcoming (c : Config) (r : Instance) (k : Nat) : Bytes :=
  r.ksbuf.drop r.cursor ++ (List.range k).flatMap fun j => blockOf c (r.ctr + BitVec.ofNat 64 j) r.key

/-- The registers after `n` bytes (42_update R149). -/
def Instance.afterBytes (c : Config) (r : Instance) (n : Nat) : Instance :=
  let k := r.boundaries c n
  { r with
    cursor := (r.cursor + n) % c.blockSize
    ctr := r.ctr + BitVec.ofNat 64 k
    ksbuf := if k = 0 then r.ksbuf else blockOf c (r.ctr + BitVec.ofNat 64 (k - 1)) r.key }

/-- The requests of `k` calls in counter order (20_memory R69). -/
def Instance.requestsFor (c : Config) (r : Instance) (k : Nat) : List Request :=
  (List.range k).map fun j => ⟨c.blockSize, le64 (r.ctr + BitVec.ofNat 64 j), r.key.bytes⟩

/-- The interfaces after `k` calls: the requests made and the answers taken. -/
def State.afterCalls (c : Config) (k : Nat) (s : State) : State :=
  { s with requests := s.requests ++ s.inst.requestsFor c k, answers := s.answers.drop k }

/-- Between commands, with seed `seed` and `t` bytes consumed since NEW (10_state R37). -/
structure Instance.Tracks (c : Config) (seed : Counter) (t : Nat) (r : Instance) : Prop where
  valid : r.valid = true
  cursor : r.cursor = t % c.blockSize
  ctr : r.ctr = seed + 1 + BitVec.ofNat 64 (t / c.blockSize)
  ksbuf : r.ksbuf = blockOf c (seed + BitVec.ofNat 64 (t / c.blockSize)) r.key

/-- UPDATE issued for each piece in turn. -/
def feed : List Bytes → State → Host.Outcome State Fault Refusal
  | [], s => .next s
  | piece :: pieces, s =>
    match exec (.update piece) s with
    | .next t => feed pieces t
    | .fault f => .fault f
    | .refused r => .refused r

/-- The outputs delivered from `s` to `t`, in order. -/
def outputsSince (s t : State) : List Bytes := (t.results.drop s.results.length).map (·.out)

end Sys2Proof.Machine
end

