-- ==== Sys2Proof/Certificates/Slice0/Obligations.lean ====
section
/-! DEFINITION. The statements for the provers. Each docstring names the rule of spec/ it formalises, or says that it is
the model's own choice and names the log entry. `Config.hardware` is opaque, so each statement holds for every block size
and every primitive. -/

open Sys2Proof Sys2Proof.Machine

/-! ## Encoding -/

/-- Words written out from R71, R76 and the table E1 to E10 of 95_test_vectors. -/
def Obligations.SpecWordsDecode : Prop :=
  (∀ tag key iv, decode (.command 0b00000000000000000000000000000001#32 [tag, key, iv]) =
      .ok (.new .encrypt tag key iv)) ∧
  (∀ tag key iv, decode (.command 0b00000000000000000000000000010001#32 [tag, key, iv]) =
      .ok (.new .decrypt tag key iv)) ∧
  (∀ data, decode (.command 0b00000000000000000000000000000010#32 [data]) = .ok (.update data)) ∧
  decode (.uop 0b01#2) = .ok .combine ∧
  decode (.uop 0b10#2) = .ok .refill ∧
  (∀ w ∈ [0x00000000#32, 0x00000003#32, 0x0000000F#32, 0x00000012#32, 0x00000022#32, 0x00000101#32, 0x80000001#32],
    ∀ operands i, decode (.command w operands) ≠ .ok i)

/-- R72 with R73: a command decodes to NEW exactly when all its bits but bit 4 are those of `0x00000001` and it has three
operands, with the direction in bit 4, and to UPDATE exactly when its word is `0x00000002` and it has one; to nothing
else. -/
def Obligations.DecodeReadsTheCommandWord : Prop :=
  ∀ (w : CommandWord) (operands : List Bytes) (i : Instr),
    decode (.command w operands) = .ok i ↔
      (∃ tag key iv, w &&& 0xFFFFFFEF#32 = 0x00000001#32 ∧ operands = [tag, key, iv] ∧
        i = .new (if w.getLsbD 4 = true then .decrypt else .encrypt) tag key iv) ∨
      (∃ data, w = 0x00000002#32 ∧ operands = [data] ∧ i = .update data)

/-- Decode and encode agree on every operation with every operand, in both directions: each legal encoding has one
meaning (R71, R73, R76). -/
def Obligations.EncodingIsOneToOne : Prop :=
  (∀ i : Instr, decode (encode i) = .ok i) ∧
  (∀ (e : Encoded) (i : Instr), decode e = .ok i → encode i = e)

/-- R71, R73, R76, R77: what the decoder accepts is exactly what passes the checks on the fields. -/
def Obligations.WellFormedExactlyWhenDecoded : Prop :=
  ∀ e : Encoded, e.wellFormed = true ↔ ∃ i, decode e = .ok i

/-- R14: both conversions byte by byte, and each is the inverse of the other. The formula is the spec's own, from general
knowledge (log entry 20). -/
def Obligations.LittleEndianConversionsAreInverse : Prop :=
  (∀ x : Counter, (le64 x).length = 8 ∧
    (∀ i (h : i < (le64 x).length), (le64 x)[i].toNat = (x.toNat >>> (8 * i)) % 256) ∧ fromLe64 (le64 x) = x) ∧
  (∀ b : Bytes, b.length = 8 →
    (fromLe64 b).toNat = ((List.range 8).map fun i => (b.getD i 0).toNat * 2 ^ (8 * i)).sum ∧ le64 (fromLe64 b) = b)

/-- R75: the seven codes, no two alike, and none of `0x7` to `0xF`. -/
def Obligations.StatusCodesAreTheTables : Prop :=
  Status.ok.code = 0x0#4 ∧ Status.unsupportedAlgorithm.code = 0x1#4 ∧ Status.invalidKeyLength.code = 0x2#4 ∧
  Status.invalidNonceLength.code = 0x3#4 ∧ Status.keystreamGenerationFailure.code = 0x4#4 ∧
  Status.illegalCommand.code = 0x5#4 ∧ Status.noInstance.code = 0x6#4 ∧
  (∀ a, Status.ofCode a.code = some a) ∧ (∀ a : Status, a.code.toNat < 7)

/-! ## The step -/

/-- A step between commands runs the command that is presented next: it is `exec` of the decoded operation, at the state
from whose inputs the command is taken. -/
def Obligations.StepRunsThePresentedCommand : Prop :=
  ∀ (s : State) (w : CommandWord) (operands : List Bytes) (rest : List Input) (i : Instr),
    s.Idle → s.inputs = .command w operands :: rest → decode (.command w operands) = .ok i →
    step s = exec i { s with inputs := rest }

/-- A step inside a command runs the micro-operation that SEQ names: it is `exec` of the decoded micro-operation,
followed by the sequencer's transition (`State.advance`, 42_update R144). -/
def Obligations.StepRunsTheMicroOperation : Prop :=
  ∀ (s : State) (i : Instr),
    (∀ rest, s.inputs ≠ .reset :: rest) → s.waiting = false → decode (.uop s.seq) = .ok i →
    step s = match exec i s with
      | .next t => .next (t.advance Config.hardware)
      | .fault f => .fault f
      | .refused r => .refused r

/-- R207: a command whose word is none of the three of R71, or that has another number of operands than its operation
takes, changes nothing and calls nothing; only its result is delivered, and the engine is between commands again. -/
def Obligations.IllegalCommandChangesNothing : Prop :=
  ∀ (s : State) (w : CommandWord) (operands : List Bytes) (rest : List Input),
    s.Idle → s.inputs = .command w operands :: rest →
    ¬ ((w = 0x00000001#32 ∨ w = 0x00000011#32) ∧ operands.length = 3) →
    ¬ (w = 0x00000002#32 ∧ operands.length = 1) →
    step s = .next { s with inputs := rest, results := s.results ++ [⟨.illegalCommand, []⟩] }

/-- R230: reset abandons whatever is in progress, without a result; the flags, SEQ and the working state take their
reset values. After it the engine waits, and an UPDATE returns `NoInstance`. Nothing is said of KEY, CTR, KSBUF and
CURSOR. The model's own: that the inputs behind the reset, the results delivered and the calls made stay (log entry 9),
and that to wait is a step that changes nothing (log entry 17). -/
def Obligations.ResetAbandonsTheCommand : Prop :=
  ∀ (s : State) (rest : List Input), s.inputs = .reset :: rest →
    ∃ t, step s = .next t ∧ t.inst.valid = false ∧ t.inst.failed = false ∧ t.Idle ∧ t.results = s.results ∧
      t.requests = s.requests ∧ t.inputs = rest ∧ (rest = [] → step t = .next t) ∧
      ∀ data, exec (.update data) t = .next { t with results := t.results ++ [⟨.noInstance, []⟩] }

/-- R40 and R230 at the reset state itself: the flags, SEQ and the working state. The empty inputs are the model's own
(log entry 6). -/
def Obligations.ResetStateWaits : Prop :=
  State.reset.inst.valid = false ∧ State.reset.inst.failed = false ∧ State.reset.Idle ∧
    step State.reset = .next State.reset

/-- R31, R208: SEQ = 11 and a COMBINE at CURSOR = B (or beyond) stop with their faults, and nothing else that a host or
the sequencer can do from a state that meets the invariant stops at all. -/
def Obligations.OnlyUnreachableStatesFault : Prop :=
  (∀ s : State, (∀ rest, s.inputs ≠ .reset :: rest) → s.waiting = false → s.seq = 0b11#2 →
    step s = .fault .seqUnused) ∧
  (∀ s : State, Config.hardware.blockSize ≤ s.inst.cursor → exec .combine s = .fault .combineAtBlockEnd) ∧
  (∀ s : State, s.Inv Config.hardware → ∃ t, step s = .next t)

/-- R236: a NEW or an UPDATE whose call is never answered delivers no result, and from then on, without a reset, nothing
is done. The model's own: that this is a next state with `waiting` set, which every later step leaves as it is (log
entries 5 and 17), and what `exec` does at a state that is not between commands (log entry 11). -/
def Obligations.UnansweredCallNeverCompletes : Prop :=
  (∀ (s : State) (dir : Direction) (key iv : Bytes), key.length = 32 → iv.length = 8 →
    s.answerAt Config.hardware 0 = .never →
    ∃ t, exec (.new dir Config.algTag key iv) s = .next t ∧ t.waiting = true ∧ t.results = s.results) ∧
  (∀ (s : State) (data : Bytes) (m : Nat), s.inst.Live → s.inst.Sized Config.hardware →
    s.inst.cursor < Config.hardware.blockSize → m < s.inst.boundaries Config.hardware data.length → data ≠ [] →
    s.AnswersGood Config.hardware m → s.answerAt Config.hardware m = .never →
    ∃ t, exec (.update data) s = .next t ∧ t.waiting = true ∧ t.results = s.results) ∧
  (∀ (s : State) (n : Nat), s.waiting = true → (∀ rest, s.inputs ≠ .reset :: rest) →
    Sys2Proof.core.run n s = .next s)

/-! ## NEW -/

/-- R102, R103, R106: a NEW whose operands pass and whose one call is answered writes every register, whatever they
held, from its operands and the block of the IV's own bytes; it makes one call and returns `(OK, [])`. -/
def Obligations.NewConstructsTheInstance : Prop :=
  ∀ (s : State) (dir : Direction) (key iv : Bytes) (hk : key.length = 32), s.Idle → iv.length = 8 →
    s.answerAt Config.hardware 0 = .returns Config.hardware.blockSize →
    exec (.new dir Config.algTag key iv) s = .next
      { s with
        inst :=
          { valid := true, failed := false, key := ⟨key, hk⟩, ctr := fromLe64 iv + 1, cursor := 0
            ksbuf := ksf Config.hardware Config.hardware.blockSize (le64 (fromLe64 iv)) key }
        results := s.results ++ [⟨.ok, []⟩]
        requests := s.requests ++ [⟨Config.hardware.blockSize, iv, key⟩], answers := s.answers.drop 1 }

/-- R101, R105: the tag is checked first (any string but the 11 bytes is refused), then the key's length, then the IV's;
an error leaves everything but the results alone, and only when all three pass is the primitive called. -/
def Obligations.NewChecksItsOperandsInOrder : Prop :=
  ∀ (s : State) (dir : Direction) (tag key iv : Bytes), s.Idle →
    (tag ≠ [0x73, 0x61, 0x6C, 0x73, 0x61, 0x32, 0x30, 0x2D, 0x63, 0x74, 0x72] →
      exec (.new dir tag key iv) s = .next { s with results := s.results ++ [⟨.unsupportedAlgorithm, []⟩] }) ∧
    (tag = [0x73, 0x61, 0x6C, 0x73, 0x61, 0x32, 0x30, 0x2D, 0x63, 0x74, 0x72] → key.length ≠ 32 →
      exec (.new dir tag key iv) s = .next { s with results := s.results ++ [⟨.invalidKeyLength, []⟩] }) ∧
    (tag = [0x73, 0x61, 0x6C, 0x73, 0x61, 0x32, 0x30, 0x2D, 0x63, 0x74, 0x72] → key.length = 32 → iv.length ≠ 8 →
      exec (.new dir tag key iv) s = .next { s with results := s.results ++ [⟨.invalidNonceLength, []⟩] }) ∧
    (tag = [0x73, 0x61, 0x6C, 0x73, 0x61, 0x32, 0x30, 0x2D, 0x63, 0x74, 0x72] → key.length = 32 → iv.length = 8 →
      ∃ t, exec (.new dir tag key iv) s = .next t ∧
        t.requests = s.requests ++ [⟨Config.hardware.blockSize, iv, key⟩])

/-- R107: a failure of the first call (41_refill R124) is NEW's error; no instance is created, and the registers stay as
they were. -/
def Obligations.NewPropagatesThePrimitivesFailure : Prop :=
  ∀ (s : State) (dir : Direction) (key iv : Bytes), s.Idle → key.length = 32 → iv.length = 8 →
    s.CallFails Config.hardware 0 →
    exec (.new dir Config.algTag key iv) s = .next
      { s with
        results := s.results ++ [⟨.keystreamGenerationFailure, []⟩]
        requests := s.requests ++ [⟨Config.hardware.blockSize, iv, key⟩], answers := s.answers.drop 1 }

/-- R108, R109: a NEW that ends either returns `(OK, [])` or returns an error with no output and changes no register. -/
def Obligations.FailedNewChangesNothing : Prop :=
  ∀ (s t : State) (dir : Direction) (tag key iv : Bytes),
    exec (.new dir tag key iv) s = .next t → t.waiting = false →
    t.results = s.results ++ [⟨.ok, []⟩] ∨
      ∃ status, status ≠ .ok ∧ t.results = s.results ++ [⟨status, []⟩] ∧ t.inst = s.inst

/-- R104: the direction has no effect. -/
def Obligations.DirectionHasNoEffect : Prop :=
  ∀ (s : State) (d₁ d₂ : Direction) (tag key iv : Bytes),
    exec (.new d₁ tag key iv) s = exec (.new d₂ tag key iv) s

/-- R231, R40: while VALID is 0 the other registers are unobservable. Two states that differ only in them give the same
results and calls for every command, and the same state after a successful NEW. -/
def Obligations.RegistersBeforeNewAreUnobservable : Prop :=
  ∀ (s t : State) (i : Instr) (r : Instance), i.hostIssuable = true → s.inst.valid = false → r.valid = false →
    r.failed = s.inst.failed → exec i s = .next t →
    ∃ t', exec i { s with inst := r } = .next t' ∧ t'.results = t.results ∧ t'.requests = t.requests ∧
      t'.inst.valid = t.inst.valid ∧ t'.inst.failed = t.inst.failed ∧ (t.inst.valid = true → t' = t)

/-! ## REFILL -/

/-- R121, R122, R123: a REFILL asks for `B` bytes at `le64(CTR)` under KEY and, answered, replaces the whole buffer,
zeroes CURSOR and increments CTR modulo 2^64; nothing else changes. -/
def Obligations.RefillLoadsTheNextBlock : Prop :=
  ∀ s : State, s.answerAt Config.hardware 0 = .returns Config.hardware.blockSize →
    exec .refill s = .next
      { s with
        inst :=
          { s.inst with
            ksbuf := ksf Config.hardware Config.hardware.blockSize (le64 s.inst.ctr) s.inst.key.bytes
            cursor := 0, ctr := BitVec.ofNat 64 ((s.inst.ctr.toNat + 1) % 2 ^ 64) }
        waiting := false
        requests := s.requests ++ [⟨Config.hardware.blockSize, le64 s.inst.ctr, s.inst.key.bytes⟩]
        answers := s.answers.drop 1 }

/-- R146 with R124, R125, R205: a REFILL inside an UPDATE whose one call fails, or brings a string of another length,
restores the registers of acceptance, sets FAILED, discards the working state and returns the error with no output. -/
def Obligations.RefillFailureRestoresTheRegisters : Prop :=
  ∀ (s : State) (r : Instance), s.snap = some r → s.CallFails Config.hardware 0 →
    exec .refill s = .next
      { s with
        inst := { r with failed := true }
        seq := Seq.idle, rem := [], outacc := [], snap := none, waiting := false
        results := s.results ++ [⟨.keystreamGenerationFailure, []⟩]
        requests := s.requests ++ [⟨Config.hardware.blockSize, le64 s.inst.ctr, s.inst.key.bytes⟩]
        answers := s.answers.drop 1 }

/-- R127: what a successful REFILL writes to KSBUF depends on CTR and KEY alone. -/
def Obligations.RefillIsDeterministic : Prop :=
  ∀ s₁ s₂ t₁ t₂ : State, s₁.inst.ctr = s₂.inst.ctr → s₁.inst.key = s₂.inst.key →
    s₁.answerAt Config.hardware 0 = .returns Config.hardware.blockSize →
    s₂.answerAt Config.hardware 0 = .returns Config.hardware.blockSize →
    exec .refill s₁ = .next t₁ → exec .refill s₂ = .next t₂ →
    t₁.inst.ksbuf = t₂.inst.ksbuf ∧ t₁.inst.ksbuf.length = Config.hardware.blockSize

/-! ## COMBINE and the combine unit -/

/-- R170, R172: a COMBINE takes `n = min(B - CURSOR, len(REM))` bytes of REM, appends their XOR with the `n` keystream
bytes from CURSOR on, and advances CURSOR by `n`; nothing else changes. -/
def Obligations.CombineTakesOneChunk : Prop :=
  ∀ (s : State) (n : Nat), s.inst.cursor < Config.hardware.blockSize →
    n = min (Config.hardware.blockSize - s.inst.cursor) s.rem.length →
    exec .combine s = .next
      { s with
        outacc := s.outacc ++ xorBytes (s.rem.take n) ((s.inst.ksbuf.drop s.inst.cursor).take n)
        inst := { s.inst with cursor := s.inst.cursor + n }
        rem := s.rem.drop n }

/-- R171, R174: output byte `i` of a COMBINE is data byte `i` XOR `KSBUF[CURSOR + i]`, bit by bit; every index read is
in `0..B-1`, and CURSOR never passes `B`. -/
def Obligations.CombinePairsBytesInOrder : Prop :=
  ∀ (s t : State), s.inst.Sized Config.hardware → s.rem ≠ [] → exec .combine s = .next t →
    ∃ n, 1 ≤ n ∧ n ≤ Config.hardware.blockSize - s.inst.cursor ∧ t.inst.cursor = s.inst.cursor + n ∧
      t.inst.cursor ≤ Config.hardware.blockSize ∧ t.outacc.length = s.outacc.length + n ∧
      s.outacc <+: t.outacc ∧
      ∀ i < n, ∀ b < 8,
        (t.outacc.getD (s.outacc.length + i) 0).getLsbD b =
          ((s.rem.getD i 0).getLsbD b != (s.inst.ksbuf.getD (s.inst.cursor + i) 0).getLsbD b)

/-- R177, which the spec derives from R15, over byte strings: zero, self-inverse, symmetric, complement. -/
def Obligations.XorLaws : Prop :=
  (∀ d : Bytes, xorBytes d (List.replicate d.length 0x00) = d) ∧
  (∀ d : Bytes, xorBytes d d = List.replicate d.length 0x00) ∧
  (∀ d k : Bytes, d.length = k.length → xorBytes (xorBytes d k) k = d) ∧
  (∀ d k : Bytes, xorBytes d k = xorBytes k d) ∧
  (∀ d : Bytes, xorBytes d (List.replicate d.length 0xFF) = d.map (~~~ ·))

/-- R173: combining `W` bytes at once, with any remainder byte by byte, gives the bytewise XOR, for every `W` and every
length; so does the strategy that takes the wide path where the lengths allow it. -/
def Obligations.LaneWidthHasNoEffect : Prop :=
  ∀ d k : Bytes, d.length = k.length →
    (∀ w, 1 ≤ w → xorLanes w d k = xorBytes d k) ∧ xorAccelerated d k = xorBytes d k

/-! ## UPDATE -/

/-- R141. -/
def Obligations.UpdateWithoutInstance : Prop :=
  ∀ (s : State) (data : Bytes), s.Idle → s.inst.valid = false →
    exec (.update data) s = .next { s with results := s.results ++ [⟨.noInstance, []⟩] }

/-- R142. -/
def Obligations.UpdateOnAFailedInstance : Prop :=
  ∀ (s : State) (data : Bytes), s.Idle → s.inst.valid = true → s.inst.failed = true →
    exec (.update data) s = .next { s with results := s.results ++ [⟨.keystreamGenerationFailure, []⟩] }

/-- R143. -/
def Obligations.EmptyUpdateChangesNothing : Prop :=
  ∀ s : State, s.Idle → s.inst.Live →
    exec (.update []) s = .next { s with results := s.results ++ [⟨.ok, []⟩] }

/-- R149, the one-step form, which the spec derives from the loop: an UPDATE of `n > 0` bytes makes `k = floor((p + n)
/ B)` calls with the counters from CTR on, returns the XOR of the data with the keystream from the cursor on, and
leaves the registers of R149; if one of its calls fails, the registers are as before but for FAILED, and no later call
is made. -/
def Obligations.UpdateOneStepForm : Prop :=
  ∀ (s : State) (data : Bytes) (k : Nat), s.Idle → s.inst.Live → s.inst.Sized Config.hardware →
    s.inst.cursor < Config.hardware.blockSize → data ≠ [] →
    k = s.inst.boundaries Config.hardware data.length →
    (s.AnswersGood Config.hardware k →
      exec (.update data) s = .next
        { s.afterCalls Config.hardware k with
          inst := s.inst.afterBytes Config.hardware data.length
          results := s.results ++ [⟨.ok, xorBytes data ((s.inst.upcoming Config.hardware k).take data.length)⟩] }) ∧
    (∀ m < k, s.AnswersGood Config.hardware m →
      s.CallFails Config.hardware m →
      exec (.update data) s = .next
        { s.afterCalls Config.hardware (m + 1) with
          inst := { s.inst with failed := true }
          results := s.results ++ [⟨.keystreamGenerationFailure, []⟩] })

/-- R148: a successful UPDATE returns as many bytes as it was given. -/
def Obligations.UpdateKeepsTheLength : Prop :=
  ∀ (s t : State) (data out : Bytes), s.inst.Sized Config.hardware →
    exec (.update data) s = .next t → t.results = s.results ++ [⟨.ok, out⟩] → out.length = data.length

/-- R151: data that exactly fill the rest of the block refill once, in the same command. -/
def Obligations.ExactFillRefillsOnce : Prop :=
  ∀ (s : State) (data : Bytes), s.Idle → s.inst.Live → s.inst.Sized Config.hardware →
    s.inst.cursor < Config.hardware.blockSize → data.length = Config.hardware.blockSize - s.inst.cursor →
    s.answerAt Config.hardware 0 = .returns Config.hardware.blockSize →
    exec (.update data) s = .next
      { s with
        inst :=
          { s.inst with
            cursor := 0, ctr := s.inst.ctr + 1
            ksbuf := ksf Config.hardware Config.hardware.blockSize (le64 s.inst.ctr) s.inst.key.bytes }
        results := s.results ++ [⟨.ok, xorBytes data (s.inst.ksbuf.drop s.inst.cursor)⟩]
        requests := s.requests ++ [⟨Config.hardware.blockSize, le64 s.inst.ctr, s.inst.key.bytes⟩]
        answers := s.answers.drop 1 }

/-- R150, which the spec derives from R149 and R37: however a string is split into pieces, empty ones among them,
feeding the pieces gives the outputs and the final state of one UPDATE of the whole, if no call fails. -/
def Obligations.ChunkInvariance : Prop :=
  ∀ (s : State) (pieces : List Bytes), s.Idle → s.inst.Live → s.inst.Sized Config.hardware →
    s.inst.cursor < Config.hardware.blockSize →
    s.AnswersGood Config.hardware (s.inst.boundaries Config.hardware pieces.flatten.length) →
    ∃ t u, feed pieces s = .next t ∧ exec (.update pieces.flatten) s = .next u ∧
      (outputsSince s t).flatten = (outputsSince s u).flatten ∧
      { t with results := [] } = { u with results := [] }

/-- R152: two instances built with the same key and IV, in any directions and on any engines; the second, fed the outputs
of the first, returns the first's inputs, if no call fails. -/
def Obligations.RoundTripReturnsThePlaintext : Prop :=
  ∀ (s₁ s₂ : State) (d₁ d₂ : Direction) (key iv : Bytes) (pieces : List Bytes), s₁.Idle → s₂.Idle →
    key.length = 32 → iv.length = 8 →
    s₁.AnswersGood Config.hardware (1 + pieces.flatten.length / Config.hardware.blockSize) →
    s₂.AnswersGood Config.hardware (1 + pieces.flatten.length / Config.hardware.blockSize) →
    ∃ e₁ t₁ e₂ t₂, exec (.new d₁ Config.algTag key iv) s₁ = .next e₁ ∧ feed pieces e₁ = .next t₁ ∧
      exec (.new d₂ Config.algTag key iv) s₂ = .next e₂ ∧ feed (outputsSince e₁ t₁) e₂ = .next t₂ ∧
      outputsSince e₂ t₂ = pieces ∧ t₁.inst = t₂.inst

/-- The one-step form of UPDATE and the sequencer agree (R140, R144; the model's two granularities, log entry 8): running
the machine's own steps from the accepted command to its end gives exactly what `exec` gives, whether the command
succeeds, fails, is never answered or stops. The inputs are empty so that no later command starts. -/
def Obligations.UpdateIsTheSequencersRun : Prop :=
  ∀ (s : State) (data : Bytes), s.inst.Live → s.inputs = [] → data ≠ [] →
    Sys2Proof.core.run (2 * data.length) (s.startUpdate data) = exec (.update data) s

/-- R147: an UPDATE of `n > 0` bytes alternates COMBINE and REFILL, starting with COMBINE, and takes exactly
`k = floor((p + n) / B)` REFILLs, and `k + 1` COMBINEs when `(p + n) mod B` is not 0, else `k`; each COMBINE takes a
byte at least. -/
def Obligations.SequencerRoundsAreCounted : Prop :=
  ∀ (s : State) (data : Bytes) (k m : Nat), s.inst.Live → s.inst.Sized Config.hardware →
    s.inst.cursor < Config.hardware.blockSize → s.inputs = [] → data ≠ [] →
    k = s.inst.boundaries Config.hardware data.length → s.AnswersGood Config.hardware k →
    m = 2 * k + (if (s.inst.cursor + data.length) % Config.hardware.blockSize = 0 then 0 else 1) →
    (∀ j, 2 * j < m → ∃ t, Sys2Proof.core.run (2 * j) (s.startUpdate data) = .next t ∧ t.seq = Seq.combine ∧
      1 ≤ t.chunkLength Config.hardware) ∧
    (∀ j < k, ∃ t, Sys2Proof.core.run (2 * j + 1) (s.startUpdate data) = .next t ∧ t.seq = Seq.refill) ∧
    (∃ t, Sys2Proof.core.run m (s.startUpdate data) = .next t ∧ exec (.update data) s = .next t ∧ t.Idle)

/-- The rows of R144's table for the two micro-operations: what a step from COMBINE or REFILL leads to. -/
def Obligations.SequencerFollowsItsTable : Prop :=
  ∀ s : State, s.InUpdate Config.hardware → s.waiting = false → (∀ rest, s.inputs ≠ .reset :: rest) →
    ∃ t, step s = .next t ∧
      (s.seq = Seq.combine → Config.hardware.blockSize ≤ s.inst.cursor + s.rem.length →
        t.seq = Seq.refill ∧ t.inst.cursor = Config.hardware.blockSize ∧ t.results = s.results) ∧
      (s.seq = Seq.combine → s.inst.cursor + s.rem.length < Config.hardware.blockSize →
        t.Idle ∧ t.inst.cursor = s.inst.cursor + s.rem.length ∧ ∃ out, t.results = s.results ++ [⟨.ok, out⟩]) ∧
      (s.seq = Seq.refill → s.answerAt Config.hardware 0 = .returns Config.hardware.blockSize → s.rem ≠ [] →
        t.seq = Seq.combine ∧ t.rem = s.rem ∧ t.results = s.results) ∧
      (s.seq = Seq.refill → s.answerAt Config.hardware 0 = .returns Config.hardware.blockSize → s.rem = [] →
        t.Idle ∧ t.inst.cursor = 0 ∧ t.results = s.results ++ [⟨.ok, s.outacc⟩]) ∧
      (s.seq = Seq.refill → s.CallFails Config.hardware 0 →
        t.Idle ∧ t.inst.failed = true ∧ t.results = s.results ++ [⟨.keystreamGenerationFailure, []⟩])

/-! ## The whole machine -/

/-- The invariant holds at reset. The sizes of KSBUF and CURSOR there are those of the model's reset values (log entry
1). -/
def Obligations.InvariantHoldsAtReset : Prop := State.reset.Inv Config.hardware

/-- Every step keeps the invariant (R23, R26, R31 to R33, R39, R145): between commands the working state is empty and a
valid instance has CURSOR < B and KSBUF the block of CTR - 1; inside a command SNAP holds registers at rest. -/
def Obligations.StepKeepsTheInvariant : Prop :=
  ∀ s t : State, s.Inv Config.hardware → step s = .next t → t.Inv Config.hardware

/-- R37, which the spec derives from the commands' rules: the registers are those of the seed and the number of bytes
consumed since NEW: a successful NEW starts the count at 0, a successful UPDATE adds its length, and any command that
ends with an error leaves it. -/
def Obligations.RegistersFollowTheConsumedCount : Prop :=
  (∀ (s t : State) (dir : Direction) (tag key iv : Bytes), exec (.new dir tag key iv) s = .next t →
    t.results = s.results ++ [⟨.ok, []⟩] →
    t.inst.Tracks Config.hardware (fromLe64 iv) 0 ∧ t.inst.key.bytes = key) ∧
  (∀ (s t : State) (seed : Counter) (n : Nat) (data out : Bytes), s.inst.Tracks Config.hardware seed n →
    exec (.update data) s = .next t → t.results = s.results ++ [⟨.ok, out⟩] →
    t.inst.Tracks Config.hardware seed (n + data.length) ∧ t.inst.key = s.inst.key) ∧
  (∀ (s t : State) (seed : Counter) (n : Nat) (i : Instr) (status : Status), s.inst.Tracks Config.hardware seed n →
    i.hostIssuable = true → exec i s = .next t → status ≠ .ok → t.results = s.results ++ [⟨status, []⟩] →
    t.inst.Tracks Config.hardware seed n ∧ t.inst.key = s.inst.key)

/-- R202: a command that is presented and ends delivers exactly one result, and the engine is then between commands. A
command that does not end (R236) has delivered none. -/
def Obligations.OneResultPerCommand : Prop :=
  ∀ (s t : State) (w : CommandWord) (operands : List Bytes) (rest : List Input), s.Idle →
    s.inputs = .command w operands :: rest → step s = .next t →
    t.inputs = rest ∧
      ((t.waiting = true ∧ t.results = s.results) ∨ (t.Idle ∧ ∃ r, t.results = s.results ++ [r]))

/-- R58: a command that ends with an error has no output and leaves the registers as they were, but for FAILED, which an
UPDATE sets with `KeystreamGenerationFailure`. -/
def Obligations.CommandsAreAtomic : Prop :=
  ∀ (s t : State) (w : CommandWord) (operands : List Bytes) (rest : List Input) (r : Result), s.Idle →
    s.inputs = .command w operands :: rest → step s = .next t → t.results = s.results ++ [r] → r.status ≠ .ok →
    r.out = [] ∧
      (t.inst = s.inst ∨
        (w = 0x00000002#32 ∧ r.status = .keystreamGenerationFailure ∧ t.inst = { s.inst with failed := true }))

/-- R75, R205: no step delivers a byte with an error. -/
def Obligations.ErrorsDeliverNoBytes : Prop :=
  ∀ (s t : State) (r : Result), step s = .next t → r ∈ t.results.drop s.results.length → r.status ≠ .ok →
    r.out = []

/-- R22, R27, R28: NEW alone writes KEY; no operation clears VALID; a successful NEW alone clears FAILED, and a REFILL
inside an UPDATE sets it exactly when its call fails (R146). Reset, which is no operation, clears both flags (R230). -/
def Obligations.WhoWritesKeyAndFlags : Prop :=
  ∀ (s t : State),
    (∀ data, exec (.update data) s = .next t →
      t.inst.key = s.inst.key ∧ t.inst.valid = s.inst.valid ∧ (s.inst.failed = true → t.inst.failed = true)) ∧
    (exec .combine s = .next t →
      t.inst.key = s.inst.key ∧ t.inst.valid = s.inst.valid ∧ t.inst.failed = s.inst.failed ∧
        t.inst.ctr = s.inst.ctr ∧ t.inst.ksbuf = s.inst.ksbuf) ∧
    (s.InUpdate Config.hardware → exec .refill s = .next t →
      t.inst.key = s.inst.key ∧ t.inst.valid = s.inst.valid ∧
        (t.inst.failed = true ↔ s.CallFails Config.hardware 0)) ∧
    (∀ dir tag key iv, exec (.new dir tag key iv) s = .next t →
      (s.inst.valid = true → t.inst.valid = true) ∧
        (t.inst.failed = s.inst.failed ∨
          (t.inst.failed = false ∧ t.inst.valid = true ∧ t.results = s.results ++ [⟨.ok, []⟩])))

/-- The frame of the interfaces, for every operation: what is presented stays for later steps, and the results delivered
and the calls made are only added to (R60, R69, R202). -/
def Obligations.InterfacesOnlyGrow : Prop :=
  ∀ (i : Instr) (s t : State), exec i s = .next t →
    t.inputs = s.inputs ∧ t.engine = s.engine ∧ s.results <+: t.results ∧ s.requests <+: t.requests

/-- R69, R38: the calls of one UPDATE use the counters from CTR on, in order, each for `B` bytes under KEY; within 2^64
calls no two use the same nonce. -/
def Obligations.CallsUseDistinctCounters : Prop :=
  ∀ (s t : State) (data : Bytes) (calls : List Request), exec (.update data) s = .next t →
    calls = t.requests.drop s.requests.length →
    calls = s.inst.requestsFor Config.hardware calls.length ∧
      (calls.length ≤ 2 ^ 64 → (calls.map (·.nonce)).Nodup)

/-- R128, R235: two instances that NEW builds with the same key and that are fed by UPDATE, no call failing. If they have
the same IV and the second has consumed 2^64 blocks more, or if the second's seed is one higher and the first has
consumed one block more, their registers are equal, so that from there on they use the same keystream. -/
def Obligations.KeystreamRepeats : Prop :=
  ∀ (s₁ s₂ : State) (d₁ d₂ : Direction) (key iv₁ iv₂ : Bytes) (pieces₁ pieces₂ : List Bytes) (n₁ n₂ : Nat),
    s₁.Idle → s₂.Idle → key.length = 32 → iv₁.length = 8 → iv₂.length = 8 →
    n₁ = pieces₁.flatten.length → n₂ = pieces₂.flatten.length →
    s₁.AnswersGood Config.hardware (1 + n₁ / Config.hardware.blockSize) →
    s₂.AnswersGood Config.hardware (1 + n₂ / Config.hardware.blockSize) →
    ∃ e₁ t₁ e₂ t₂, exec (.new d₁ Config.algTag key iv₁) s₁ = .next e₁ ∧ feed pieces₁ e₁ = .next t₁ ∧
      exec (.new d₂ Config.algTag key iv₂) s₂ = .next e₂ ∧ feed pieces₂ e₂ = .next t₂ ∧
      (iv₁ = iv₂ → n₂ = n₁ + 2 ^ 64 * Config.hardware.blockSize → t₁.inst = t₂.inst) ∧
      (fromLe64 iv₂ = fromLe64 iv₁ + 1 → n₁ = n₂ + Config.hardware.blockSize → t₁.inst = t₂.inst)

/-- R176, R36: UPDATEs of the same length from the same state leave the same registers and make the same calls, whatever
their data, and if both succeed, their outputs differ exactly where and as their data do. What the output is, byte by
byte, is `Obligations.UpdateOneStepForm`'s. -/
def Obligations.UpdateOutputsDifferAsTheirData : Prop :=
  ∀ (s t₁ t₂ : State) (d₁ d₂ out₁ out₂ : Bytes), s.inst.Sized Config.hardware → d₁.length = d₂.length →
    exec (.update d₁) s = .next t₁ → exec (.update d₂) s = .next t₂ →
    t₁.inst = t₂.inst ∧ t₁.requests = t₂.requests ∧
      (t₁.results = s.results ++ [⟨.ok, out₁⟩] → t₂.results = s.results ++ [⟨.ok, out₂⟩] →
        xorBytes out₁ out₂ = xorBytes d₁ d₂)

/-- R26: a CURSOR of at most `B` fits in `CW` bits, and in no fewer can `B` itself be held. -/
def Obligations.CursorFitsItsWidth : Prop :=
  (∀ r : Instance, r.Sized Config.hardware → r.cursor < 2 ^ Config.hardware.cursorWidth) ∧
  (∀ w, Config.hardware.blockSize < 2 ^ w → Config.hardware.cursorWidth ≤ w)

/-- R63, R212: however the steps of a platform's engines are interleaved, each engine is what it would be by itself after
as many steps of its own. -/
def Obligations.EnginesAreIndependent : Prop :=
  ∀ (p : Platform) (schedule : List Nat) (j : Nat),
    (Platform.run schedule p)[j]? = (p[j]?).map (State.afterSteps (schedule.count j))

/-- R69, R38: the calls of one instance, its NEW's and those of all the UPDATEs after it, whether they succeed or not, use
the counters from the seed on, in order, each for `B` bytes under the key; among 2^64 of them no two use the same
nonce. What an UPDATE does after one that waits for the primitive is the model's own (log entry 11). -/
def Obligations.InstanceCallsUseDistinctCounters : Prop :=
  ∀ (s e t : State) (dir : Direction) (tag key iv : Bytes) (pieces : List Bytes) (calls : List Request),
    exec (.new dir tag key iv) s = .next e → e.results = s.results ++ [⟨.ok, []⟩] → feed pieces e = .next t →
    calls = t.requests.drop s.requests.length →
    1 ≤ calls.length ∧
      calls = (List.range calls.length).map (fun j =>
        ⟨Config.hardware.blockSize, le64 (fromLe64 iv + BitVec.ofNat 64 j), key⟩) ∧
      (calls.length ≤ 2 ^ 64 → (calls.map (·.nonce)).Nodup)
end

