-- ==== Sys2Proof/Laws/State.lean ====
section
/-! SUPPORT. What each update of the state leaves in each field, one lemma a field, true by `rfl`; later proofs cite these
and unfold no record update. -/

namespace Sys2Proof.Machine

/-! ## State.accept -/

@[simp] theorem State.accept_inst (s : State) : s.accept.inst = s.inst := rfl
@[simp] theorem State.accept_seq (s : State) : s.accept.seq = s.seq := rfl
@[simp] theorem State.accept_rem (s : State) : s.accept.rem = s.rem := rfl
@[simp] theorem State.accept_outacc (s : State) : s.accept.outacc = s.outacc := rfl
@[simp] theorem State.accept_snap (s : State) : s.accept.snap = some s.inst := rfl
@[simp] theorem State.accept_waiting (s : State) : s.accept.waiting = false := rfl
@[simp] theorem State.accept_inputs (s : State) : s.accept.inputs = s.inputs := rfl
@[simp] theorem State.accept_results (s : State) : s.accept.results = s.results := rfl
@[simp] theorem State.accept_requests (s : State) : s.accept.requests = s.requests := rfl
@[simp] theorem State.accept_answers (s : State) : s.accept.answers = s.answers := rfl
@[simp] theorem State.accept_engine (s : State) : s.accept.engine = s.engine := rfl

/-! ## State.deliver -/

@[simp] theorem State.deliver_inst (status : Status) (out : Bytes) (s : State) : (s.deliver status out).inst = s.inst := rfl
@[simp] theorem State.deliver_seq (status : Status) (out : Bytes) (s : State) : (s.deliver status out).seq = Seq.idle := rfl
@[simp] theorem State.deliver_rem (status : Status) (out : Bytes) (s : State) : (s.deliver status out).rem = [] := rfl
@[simp] theorem State.deliver_outacc (status : Status) (out : Bytes) (s : State) : (s.deliver status out).outacc = [] := rfl
@[simp] theorem State.deliver_snap (status : Status) (out : Bytes) (s : State) : (s.deliver status out).snap = none := rfl
@[simp] theorem State.deliver_waiting (status : Status) (out : Bytes) (s : State) : (s.deliver status out).waiting = false := rfl
@[simp] theorem State.deliver_inputs (status : Status) (out : Bytes) (s : State) : (s.deliver status out).inputs = s.inputs := rfl
@[simp] theorem State.deliver_results (status : Status) (out : Bytes) (s : State) : (s.deliver status out).results = s.results ++ [⟨status, out⟩] := rfl
@[simp] theorem State.deliver_requests (status : Status) (out : Bytes) (s : State) : (s.deliver status out).requests = s.requests := rfl
@[simp] theorem State.deliver_answers (status : Status) (out : Bytes) (s : State) : (s.deliver status out).answers = s.answers := rfl
@[simp] theorem State.deliver_engine (status : Status) (out : Bytes) (s : State) : (s.deliver status out).engine = s.engine := rfl

/-! ## State.called -/

@[simp] theorem State.called_inst (c : Config) (s : State) : (s.called c).inst = s.inst := rfl
@[simp] theorem State.called_seq (c : Config) (s : State) : (s.called c).seq = s.seq := rfl
@[simp] theorem State.called_rem (c : Config) (s : State) : (s.called c).rem = s.rem := rfl
@[simp] theorem State.called_outacc (c : Config) (s : State) : (s.called c).outacc = s.outacc := rfl
@[simp] theorem State.called_snap (c : Config) (s : State) : (s.called c).snap = s.snap := rfl
@[simp] theorem State.called_waiting (c : Config) (s : State) : (s.called c).waiting = decide (s.answerAt c 0 = .never) := rfl
@[simp] theorem State.called_inputs (c : Config) (s : State) : (s.called c).inputs = s.inputs := rfl
@[simp] theorem State.called_results (c : Config) (s : State) : (s.called c).results = s.results := rfl
@[simp] theorem State.called_requests (c : Config) (s : State) : (s.called c).requests = s.requests ++ [s.request c] := rfl
@[simp] theorem State.called_answers (c : Config) (s : State) : (s.called c).answers = s.answers.drop 1 := rfl
@[simp] theorem State.called_engine (c : Config) (s : State) : (s.called c).engine = s.engine := rfl

/-! ## State.combineChunk -/

@[simp] theorem State.combineChunk_inst (c : Config) (s : State) : (s.combineChunk c).inst = { s.inst with cursor := s.inst.cursor + s.chunkLength c } := rfl
@[simp] theorem State.combineChunk_seq (c : Config) (s : State) : (s.combineChunk c).seq = s.seq := rfl
@[simp] theorem State.combineChunk_rem (c : Config) (s : State) : (s.combineChunk c).rem = s.rem.drop (s.chunkLength c) := rfl
@[simp] theorem State.combineChunk_outacc (c : Config) (s : State) : (s.combineChunk c).outacc = s.outacc ++ xorBytes (s.rem.take (s.chunkLength c)) (s.inst.ksRead s.inst.cursor (s.chunkLength c)) := rfl
@[simp] theorem State.combineChunk_snap (c : Config) (s : State) : (s.combineChunk c).snap = s.snap := rfl
@[simp] theorem State.combineChunk_waiting (c : Config) (s : State) : (s.combineChunk c).waiting = s.waiting := rfl
@[simp] theorem State.combineChunk_inputs (c : Config) (s : State) : (s.combineChunk c).inputs = s.inputs := rfl
@[simp] theorem State.combineChunk_results (c : Config) (s : State) : (s.combineChunk c).results = s.results := rfl
@[simp] theorem State.combineChunk_requests (c : Config) (s : State) : (s.combineChunk c).requests = s.requests := rfl
@[simp] theorem State.combineChunk_answers (c : Config) (s : State) : (s.combineChunk c).answers = s.answers := rfl
@[simp] theorem State.combineChunk_engine (c : Config) (s : State) : (s.combineChunk c).engine = s.engine := rfl

/-! ## State.loadSeed -/

@[simp] theorem State.loadSeed_inst (key : Key) (seed : Counter) (s : State) : (s.loadSeed key seed).inst = { s.inst with key := key, ctr := seed } := rfl
@[simp] theorem State.loadSeed_seq (key : Key) (seed : Counter) (s : State) : (s.loadSeed key seed).seq = Seq.refill := rfl
@[simp] theorem State.loadSeed_rem (key : Key) (seed : Counter) (s : State) : (s.loadSeed key seed).rem = s.rem := rfl
@[simp] theorem State.loadSeed_outacc (key : Key) (seed : Counter) (s : State) : (s.loadSeed key seed).outacc = s.outacc := rfl
@[simp] theorem State.loadSeed_snap (key : Key) (seed : Counter) (s : State) : (s.loadSeed key seed).snap = s.snap := rfl
@[simp] theorem State.loadSeed_waiting (key : Key) (seed : Counter) (s : State) : (s.loadSeed key seed).waiting = s.waiting := rfl
@[simp] theorem State.loadSeed_inputs (key : Key) (seed : Counter) (s : State) : (s.loadSeed key seed).inputs = s.inputs := rfl
@[simp] theorem State.loadSeed_results (key : Key) (seed : Counter) (s : State) : (s.loadSeed key seed).results = s.results := rfl
@[simp] theorem State.loadSeed_requests (key : Key) (seed : Counter) (s : State) : (s.loadSeed key seed).requests = s.requests := rfl
@[simp] theorem State.loadSeed_answers (key : Key) (seed : Counter) (s : State) : (s.loadSeed key seed).answers = s.answers := rfl
@[simp] theorem State.loadSeed_engine (key : Key) (seed : Counter) (s : State) : (s.loadSeed key seed).engine = s.engine := rfl

/-! ## State.startUpdate -/

@[simp] theorem State.startUpdate_inst (data : Bytes) (s : State) : (s.startUpdate data).inst = s.inst := rfl
@[simp] theorem State.startUpdate_seq (data : Bytes) (s : State) : (s.startUpdate data).seq = Seq.combine := rfl
@[simp] theorem State.startUpdate_rem (data : Bytes) (s : State) : (s.startUpdate data).rem = data := rfl
@[simp] theorem State.startUpdate_outacc (data : Bytes) (s : State) : (s.startUpdate data).outacc = [] := rfl
@[simp] theorem State.startUpdate_snap (data : Bytes) (s : State) : (s.startUpdate data).snap = some s.inst := rfl
@[simp] theorem State.startUpdate_waiting (data : Bytes) (s : State) : (s.startUpdate data).waiting = false := rfl
@[simp] theorem State.startUpdate_inputs (data : Bytes) (s : State) : (s.startUpdate data).inputs = s.inputs := rfl
@[simp] theorem State.startUpdate_results (data : Bytes) (s : State) : (s.startUpdate data).results = s.results := rfl
@[simp] theorem State.startUpdate_requests (data : Bytes) (s : State) : (s.startUpdate data).requests = s.requests := rfl
@[simp] theorem State.startUpdate_answers (data : Bytes) (s : State) : (s.startUpdate data).answers = s.answers := rfl
@[simp] theorem State.startUpdate_engine (data : Bytes) (s : State) : (s.startUpdate data).engine = s.engine := rfl

/-! ## State.afterReset -/

@[simp] theorem State.afterReset_inst (s : State) (rest : List Input) : (s.afterReset rest).inst = .reset := rfl
@[simp] theorem State.afterReset_seq (s : State) (rest : List Input) : (s.afterReset rest).seq = Seq.idle := rfl
@[simp] theorem State.afterReset_rem (s : State) (rest : List Input) : (s.afterReset rest).rem = [] := rfl
@[simp] theorem State.afterReset_outacc (s : State) (rest : List Input) : (s.afterReset rest).outacc = [] := rfl
@[simp] theorem State.afterReset_snap (s : State) (rest : List Input) : (s.afterReset rest).snap = none := rfl
@[simp] theorem State.afterReset_waiting (s : State) (rest : List Input) : (s.afterReset rest).waiting = false := rfl
@[simp] theorem State.afterReset_inputs (s : State) (rest : List Input) : (s.afterReset rest).inputs = rest := rfl
@[simp] theorem State.afterReset_results (s : State) (rest : List Input) : (s.afterReset rest).results = s.results := rfl
@[simp] theorem State.afterReset_requests (s : State) (rest : List Input) : (s.afterReset rest).requests = s.requests := rfl
@[simp] theorem State.afterReset_answers (s : State) (rest : List Input) : (s.afterReset rest).answers = s.answers := rfl
@[simp] theorem State.afterReset_engine (s : State) (rest : List Input) : (s.afterReset rest).engine = s.engine := rfl

/-! ## State.raise -/

@[simp] theorem State.raise_inst (status : Status) (marksFailed : Bool) (s : State) : (s.raise status marksFailed).inst = if marksFailed then (s.snap.getD s.inst).markFailed else s.snap.getD s.inst := rfl
@[simp] theorem State.raise_seq (status : Status) (marksFailed : Bool) (s : State) : (s.raise status marksFailed).seq = Seq.idle := rfl
@[simp] theorem State.raise_rem (status : Status) (marksFailed : Bool) (s : State) : (s.raise status marksFailed).rem = [] := rfl
@[simp] theorem State.raise_outacc (status : Status) (marksFailed : Bool) (s : State) : (s.raise status marksFailed).outacc = [] := rfl
@[simp] theorem State.raise_snap (status : Status) (marksFailed : Bool) (s : State) : (s.raise status marksFailed).snap = none := rfl
@[simp] theorem State.raise_waiting (status : Status) (marksFailed : Bool) (s : State) : (s.raise status marksFailed).waiting = false := rfl
@[simp] theorem State.raise_inputs (status : Status) (marksFailed : Bool) (s : State) : (s.raise status marksFailed).inputs = s.inputs := rfl
@[simp] theorem State.raise_results (status : Status) (marksFailed : Bool) (s : State) : (s.raise status marksFailed).results = s.results ++ [⟨status, []⟩] := rfl
@[simp] theorem State.raise_requests (status : Status) (marksFailed : Bool) (s : State) : (s.raise status marksFailed).requests = s.requests := rfl
@[simp] theorem State.raise_answers (status : Status) (marksFailed : Bool) (s : State) : (s.raise status marksFailed).answers = s.answers := rfl
@[simp] theorem State.raise_engine (status : Status) (marksFailed : Bool) (s : State) : (s.raise status marksFailed).engine = s.engine := rfl

/-! ## Instance.loadBlock -/

@[simp] theorem Instance.loadBlock_valid (block : Bytes) (r : Instance) : (r.loadBlock block).valid = r.valid := rfl
@[simp] theorem Instance.loadBlock_failed (block : Bytes) (r : Instance) : (r.loadBlock block).failed = r.failed := rfl
@[simp] theorem Instance.loadBlock_key (block : Bytes) (r : Instance) : (r.loadBlock block).key = r.key := rfl
@[simp] theorem Instance.loadBlock_ctr (block : Bytes) (r : Instance) : (r.loadBlock block).ctr = r.ctr + 1 := rfl
@[simp] theorem Instance.loadBlock_ksbuf (block : Bytes) (r : Instance) : (r.loadBlock block).ksbuf = block := rfl
@[simp] theorem Instance.loadBlock_cursor (block : Bytes) (r : Instance) : (r.loadBlock block).cursor = 0 := rfl

/-! ## Instance.markFailed -/

@[simp] theorem Instance.markFailed_valid (r : Instance) : r.markFailed.valid = r.valid := rfl
@[simp] theorem Instance.markFailed_failed (r : Instance) : r.markFailed.failed = true := rfl
@[simp] theorem Instance.markFailed_key (r : Instance) : r.markFailed.key = r.key := rfl
@[simp] theorem Instance.markFailed_ctr (r : Instance) : r.markFailed.ctr = r.ctr := rfl
@[simp] theorem Instance.markFailed_ksbuf (r : Instance) : r.markFailed.ksbuf = r.ksbuf := rfl
@[simp] theorem Instance.markFailed_cursor (r : Instance) : r.markFailed.cursor = r.cursor := rfl

/-! ## Instance.markConstructed -/

@[simp] theorem Instance.markConstructed_valid (r : Instance) : r.markConstructed.valid = true := rfl
@[simp] theorem Instance.markConstructed_failed (r : Instance) : r.markConstructed.failed = false := rfl
@[simp] theorem Instance.markConstructed_key (r : Instance) : r.markConstructed.key = r.key := rfl
@[simp] theorem Instance.markConstructed_ctr (r : Instance) : r.markConstructed.ctr = r.ctr := rfl
@[simp] theorem Instance.markConstructed_ksbuf (r : Instance) : r.markConstructed.ksbuf = r.ksbuf := rfl
@[simp] theorem Instance.markConstructed_cursor (r : Instance) : r.markConstructed.cursor = r.cursor := rfl

/-! ## The codes of SEQ -/

@[simp] theorem Seq.combine_ne_idle : Seq.combine ≠ Seq.idle := by decide
@[simp] theorem Seq.refill_ne_idle : Seq.refill ≠ Seq.idle := by decide
@[simp] theorem Seq.refill_ne_combine : Seq.refill ≠ Seq.combine := by decide
@[simp] theorem Seq.idle_ne_combine : Seq.idle ≠ Seq.combine := by decide
@[simp] theorem Seq.idle_ne_refill : Seq.idle ≠ Seq.refill := by decide
@[simp] theorem Seq.combine_ne_refill : Seq.combine ≠ Seq.refill := by decide

end Sys2Proof.Machine
end

