-- ==== Sys2Proof/Laws/Ops.lean ====
section
/-! SUPPORT. What the shared operations do, each said once: the keystream's length, the primitive's answers, the one run
of REFILL, the combine unit, and reset. -/

namespace Sys2Proof.Machine

/-! ## The configuration -/

theorem hardware_blockSize_pos : 0 < Config.hardware.blockSize := Nat.succ_pos _

/-! ## The keystream -/

@[simp] theorem ksf_length (c : Config) (n : Nat) (nonce key : Bytes) : (ksf c n nonce key).length = n := by
  simp [ksf]

@[simp] theorem blockOf_length (c : Config) (ctr : Counter) (key : Key) :
    (blockOf c ctr key).length = c.blockSize := by simp [blockOf]

@[simp] theorem leBytes_length (n x : Nat) : (leBytes n x).length = n := by simp [leBytes]

@[simp] theorem le64_length (x : Counter) : (le64 x).length = 8 := by simp [le64]

@[simp] theorem xorBytes_length (d k : Bytes) : (xorBytes d k).length = min d.length k.length := by
  simp [xorBytes]

theorem xorBytes_append {d₁ d₂ k₁ k₂ : Bytes} (h : d₁.length = k₁.length) :
    xorBytes (d₁ ++ d₂) (k₁ ++ k₂) = xorBytes d₁ k₁ ++ xorBytes d₂ k₂ := by
  simp [xorBytes, List.zipWith_append h]

/-! ## The primitive's answers -/

/-- Which answer comes depends on the listed answers, the engine and the number of calls made. -/
theorem State.answerAt_congr {c : Config} {s t : State} (ha : t.answers = s.answers) (he : t.engine = s.engine)
    (hr : t.requests.length = s.requests.length) (j : Nat) : t.answerAt c j = s.answerAt c j := by
  simp [State.answerAt, ha, he, hr]

/-- After `k` calls the answers to come are those from the `k`-th on. -/
theorem State.answerAt_after {c : Config} {s t : State} {k : Nat} (ha : t.answers = s.answers.drop k)
    (he : t.engine = s.engine) (hr : t.requests.length = s.requests.length + k) (j : Nat) :
    t.answerAt c j = s.answerAt c (k + j) := by
  simp [State.answerAt, ha, he, hr, List.getElem?_drop, Nat.add_assoc]

theorem State.answerAt_called (c : Config) (s : State) (j : Nat) :
    (s.called c).answerAt c j = s.answerAt c (1 + j) :=
  State.answerAt_after (s := s) (t := s.called c) (k := 1) rfl rfl (by simp) j

/-- An answer is a block, a failure or none. -/
theorem State.answer_cases (c : Config) (s : State) (j : Nat) :
    s.answerAt c j = .returns c.blockSize ∨ s.CallFails c j ∨ s.answerAt c j = .never := by
  unfold State.CallFails
  cases h : s.answerAt c j with
  | returns n =>
    by_cases hn : n = c.blockSize
    · exact .inl (by rw [hn])
    · exact .inr (.inl (.inr ⟨n, hn, rfl⟩))
  | fails => exact .inr (.inl (.inl rfl))
  | never => exact .inr (.inr rfl)

/-- A failure is no block. -/
theorem State.CallFails.ne_returns {c : Config} {s : State} {j : Nat} (h : s.CallFails c j) :
    s.answerAt c j ≠ .returns c.blockSize := by
  rcases h with h | ⟨n, hn, h⟩ <;> simp [h]
  exact hn

theorem State.CallFails.ne_never {c : Config} {s : State} {j : Nat} (h : s.CallFails c j) :
    s.answerAt c j ≠ .never := by
  rcases h with h | ⟨n, _, h⟩ <;> simp [h]

/-! ## REFILL -/

/-- An answered REFILL loads the block of CTR and KEY (41_refill R121 to R123). -/
theorem State.refill_good {c : Config} {s : State} (f : Bool) (h : s.answerAt c 0 = .returns c.blockSize) :
    s.refill c f =
      { s.called c with inst := s.inst.loadBlock (blockOf c s.inst.ctr s.inst.key) } := by
  simp [State.refill, h, receive, State.request, blockOf]

/-- A failed call raises the error (41_refill R124). -/
theorem State.refill_failed {c : Config} {s : State} (f : Bool) (h : s.CallFails c 0) :
    s.refill c f = (s.called c).raise .keystreamGenerationFailure f := by
  rcases h with h | ⟨n, hn, h⟩
  · simp [State.refill, h, receive]
  · simp [State.refill, h, receive, State.request, hn]

/-- Without an answer the engine waits (70_reset_and_hazards R236). -/
theorem State.refill_never {c : Config} {s : State} (f : Bool) (h : s.answerAt c 0 = .never) :
    s.refill c f = s.called c := by simp [State.refill, h]

/-- Everything that a REFILL can do. -/
theorem State.refill_cases (c : Config) (s : State) (f : Bool) :
    (s.answerAt c 0 = .returns c.blockSize ∧
      s.refill c f = { s.called c with inst := s.inst.loadBlock (blockOf c s.inst.ctr s.inst.key) }) ∨
    (s.CallFails c 0 ∧ s.refill c f = (s.called c).raise .keystreamGenerationFailure f) ∨
    (s.answerAt c 0 = .never ∧ s.refill c f = s.called c) := by
  rcases s.answer_cases c 0 with h | h | h
  · exact .inl ⟨h, State.refill_good f h⟩
  · exact .inr (.inl ⟨h, State.refill_failed f h⟩)
  · exact .inr (.inr ⟨h, State.refill_never f h⟩)

/-! ## The sizes of the registers -/

/-- Loading a block keeps the registers' sizes. -/
theorem Instance.sized_loadBlock (c : Config) (r : Instance) (ctr : Counter) (key : Key) :
    (r.loadBlock (blockOf c ctr key)).Sized c := ⟨by simp, by simp⟩

/-- COMBINE keeps the registers' sizes: CURSOR never passes `B` (43_combine R172). -/
theorem State.sized_combineChunk {c : Config} {s : State} (h : s.inst.Sized c) : (s.combineChunk c).inst.Sized c := by
  refine ⟨h.ksbuf, ?_⟩
  have := h.cursor
  simp only [State.combineChunk_inst, State.chunkLength]
  omega

theorem Instance.reset_sized : Instance.reset.Sized Config.hardware :=
  ⟨by simp [Instance.reset], Nat.zero_le _⟩

/-! ## NEW's operands -/

theorem newOperands_ok {key iv : Bytes} (hk : key.length = 32) (hv : iv.length = 8) :
    newOperands Config.algTag key iv = .ok (⟨key, hk⟩, fromLe64 iv) := by
  simp [newOperands, Config.keyLen, Config.ivLen, hk, hv]

/-- What NEW's checks answer, in their order (40_construction R101). -/
theorem newOperands_cases (tag key iv : Bytes) :
    (tag ≠ Config.algTag ∧ newOperands tag key iv = .error .unsupportedAlgorithm) ∨
    (tag = Config.algTag ∧ key.length ≠ 32 ∧ newOperands tag key iv = .error .invalidKeyLength) ∨
    (tag = Config.algTag ∧ key.length = 32 ∧ iv.length ≠ 8 ∧ newOperands tag key iv = .error .invalidNonceLength) ∨
    (∃ (_ : tag = Config.algTag) (hk : key.length = 32) (_ : iv.length = 8),
      newOperands tag key iv = .ok (⟨key, hk⟩, fromLe64 iv)) := by
  unfold newOperands Config.keyLen Config.ivLen
  by_cases ht : tag = Config.algTag
  · by_cases hk : key.length = 32
    · by_cases hv : iv.length = 8
      · exact .inr (.inr (.inr ⟨ht, hk, hv, by simp [ht, hk, hv]⟩))
      · exact .inr (.inr (.inl ⟨ht, hk, hv, by simp [ht, hk, hv]⟩))
    · exact .inr (.inl ⟨ht, hk, by simp [ht, hk]⟩)
  · exact .inl ⟨ht, by simp [ht]⟩

/-- Everything that NEW can do. -/
theorem newCommand_cases (c : Config) (tag key iv : Bytes) (s : State) :
    (∃ status, status ≠ .ok ∧ newOperands tag key iv = .error status ∧
      newCommand c tag key iv s = s.accept.raise status false) ∨
    ∃ k seed, newOperands tag key iv = .ok (k, seed) ∧
      ((s.answerAt c 0 = .returns c.blockSize ∧ newCommand c tag key iv s =
          State.constructed
            { (s.accept.loadSeed k seed).called c with
              inst := (s.accept.loadSeed k seed).inst.loadBlock (blockOf c seed k) }) ∨
        (s.CallFails c 0 ∧ newCommand c tag key iv s =
          ((s.accept.loadSeed k seed).called c).raise .keystreamGenerationFailure false) ∨
        (s.answerAt c 0 = .never ∧ newCommand c tag key iv s = (s.accept.loadSeed k seed).called c)) := by
  unfold newCommand
  have hans : ∀ k seed, (s.accept.loadSeed k seed).answerAt c 0 = s.answerAt c 0 := fun k seed =>
    State.answerAt_congr rfl rfl rfl 0
  have hfail : ∀ k seed, s.CallFails c 0 → (s.accept.loadSeed k seed).CallFails c 0 := fun k seed h => by
    unfold State.CallFails at h ⊢
    rwa [hans]
  rcases newOperands_cases tag key iv with ⟨_, h⟩ | ⟨_, _, h⟩ | ⟨_, _, _, h⟩ | ⟨_, _, _, h⟩
  · exact .inl ⟨_, by simp, h, by simp only [h]⟩
  · exact .inl ⟨_, by simp, h, by simp only [h]⟩
  · exact .inl ⟨_, by simp, h, by simp only [h]⟩
  · refine .inr ⟨_, _, h, ?_⟩
    simp only [h]
    rcases s.answer_cases c 0 with ha | ha | ha
    · refine .inl ⟨ha, ?_⟩
      rw [State.refill_good false (by rw [hans]; exact ha)]
      simp [State.afterFirstRefill, hans, ha]
    · refine .inr (.inl ⟨ha, ?_⟩)
      rw [State.refill_failed false (hfail _ _ ha)]
      simp [State.afterFirstRefill]
    · refine .inr (.inr ⟨ha, ?_⟩)
      rw [State.refill_never false (by rw [hans]; exact ha)]
      simp [State.afterFirstRefill, hans, ha]

end Sys2Proof.Machine
end

