-- ==== Sys2Proof/Laws/Bytes.lean ====
section
/-! SUPPORT. Little-endian numbers and byte strings (00_scope R14): each conversion undoes the other, and a wide XOR is
the bytewise one. -/

namespace Sys2Proof.Machine

theorem leNat_lt : ∀ b : Bytes, leNat b < 256 ^ b.length
  | [] => by simp [leNat]
  | b :: bs => by
    have ih := leNat_lt bs
    have hb := b.isLt
    simp only [leNat, List.length_cons, pow_succ]
    omega

theorem leBytes_succ (n x : Nat) : leBytes (n + 1) x = BitVec.ofNat 8 x :: leBytes n (x / 256) := by
  simp only [leBytes, List.range_succ_eq_map, List.map_cons, List.map_map, Nat.mul_zero, Nat.shiftRight_zero,
    List.cons.injEq, true_and]
  apply List.map_congr_left
  intro a _
  simp only [Function.comp, Nat.succ_eq_add_one, Nat.mul_add, Nat.shiftRight_eq_div_pow, Nat.pow_add]
  rw [Nat.mul_comm, ← Nat.div_div_eq_div_mul]

theorem leBytes_leNat : ∀ b : Bytes, leBytes b.length (leNat b) = b
  | [] => rfl
  | b :: bs => by
    have hb : b.toNat < 256 := b.isLt
    have h1 : (b.toNat + 256 * leNat bs) / 256 = leNat bs := by omega
    rw [List.length_cons, leBytes_succ, leNat, h1, leBytes_leNat bs]
    congr 1
    apply BitVec.eq_of_toNat_eq
    simp only [BitVec.toNat_ofNat]
    omega

theorem leNat_leBytes : ∀ n x, x < 256 ^ n → leNat (leBytes n x) = x
  | 0, x, h => by simp [leBytes, leNat] at *; omega
  | n + 1, x, h => by
    rw [leBytes_succ, leNat, leNat_leBytes n (x / 256) (by rw [pow_succ] at h; omega)]
    simp only [BitVec.toNat_ofNat]
    omega

theorem fromLe64_toNat {b : Bytes} (h : b.length = 8) : (fromLe64 b).toNat = leNat b := by
  have hlt := leNat_lt b
  rw [h] at hlt
  simp only [fromLe64, BitVec.toNat_ofNat]
  omega

/-- The first block is generated with the IV's own bytes (20_memory R51). -/
theorem le64_fromLe64 {iv : Bytes} (h : iv.length = 8) : le64 (fromLe64 iv) = iv := by
  rw [le64, fromLe64_toNat h, ← h]
  exact leBytes_leNat iv

theorem fromLe64_le64 (x : Counter) : fromLe64 (le64 x) = x := by
  apply BitVec.eq_of_toNat_eq
  rw [fromLe64_toNat (le64_length x)]
  exact leNat_leBytes 8 _ x.isLt

/-- The low byte of a number whose rest is shifted up. -/
theorem add_mul_eq_or {p q : Nat} (h : p < 256) : p + 256 * q = q <<< 8 ||| p := by
  rw [Nat.shiftLeft_eq, Nat.mul_comm q, Nat.add_comm]
  exact Nat.two_pow_add_eq_or_of_lt (i := 8) h q

/-- A wide XOR acts on the low byte and on the rest by themselves. -/
theorem xor_add_mul {a b p q : Nat} (ha : a < 256) (hb : b < 256) :
    (a + 256 * p) ^^^ (b + 256 * q) = (a ^^^ b) + 256 * (p ^^^ q) := by
  have hx : a ^^^ b < 256 := Nat.xor_lt_two_pow (n := 8) ha hb
  rw [add_mul_eq_or ha, add_mul_eq_or hb, add_mul_eq_or hx]
  apply Nat.eq_of_testBit_eq
  intro i
  simp only [Nat.testBit_xor, Nat.testBit_or, Nat.testBit_shiftLeft]
  by_cases h8 : 8 ≤ i
  · have hpow : 256 ≤ 2 ^ i := Nat.pow_le_pow_right (n := 2) (by norm_num) h8
    simp [Nat.testBit_lt_two_pow (lt_of_lt_of_le ha hpow), Nat.testBit_lt_two_pow (lt_of_lt_of_le hb hpow), h8]
  · simp [h8]

/-- One group combined at once is the bytewise XOR of the group. -/
theorem xorGroup_eq : ∀ d k : Bytes, d.length = k.length → xorGroup d k = xorBytes d k
  | [], [], _ => rfl
  | a :: d, b :: k, h => by
    have ih := xorGroup_eq d k (by simpa using h)
    have hx : a.toNat ^^^ b.toNat < 256 := Nat.xor_lt_two_pow (n := 8) a.isLt b.isLt
    have h1 : ((a.toNat ^^^ b.toNat) + 256 * (leNat d ^^^ leNat k)) / 256 = leNat d ^^^ leNat k := by omega
    simp only [xorGroup, xorBytes, List.length_cons, leNat, List.zipWith_cons_cons] at ih ⊢
    rw [leBytes_succ, xor_add_mul a.isLt b.isLt, h1, ih]
    congr 1
    apply BitVec.eq_of_toNat_eq
    simp only [BitVec.toNat_ofNat, BitVec.toNat_xor]
    omega

end Sys2Proof.Machine
end

