-- ==== Sys2Proof/Laws/PerInstr.lean ====
section
/-! SUPPORT. One family of facts about each operation as syntax: its encoding passes the checks on the fields
(30_encoding R71, R73, R76). -/

namespace Sys2Proof.Laws.EncodesWellFormed

/-- The encoding of the operation is well formed, and a command word encodes exactly the operations a host issues. -/
def Statement (i : Instr) : Prop :=
  (encode i).wellFormed = true ∧ (i.hostIssuable = true ↔ ∃ w operands, encode i = .command w operands)

theorem new (dir : Direction) (tag key iv : Bytes) : Statement (.new dir tag key iv) := by
  refine ⟨?_, by simp [Instr.hostIssuable, encode]⟩
  cases dir <;>
    simp [encode, newWord, Encoded.wellFormed, operandsMatch, CommandWord.opcKnown, CommandWord.dirAllowed,
      CommandWord.reservedZero, CommandWord.opc, CommandWord.dir, CommandWord.rsv, operandCount]

theorem update (data : Bytes) : Statement (.update data) := by
  refine ⟨?_, by simp [Instr.hostIssuable, encode]⟩
  simp [encode, Encoded.wellFormed, operandsMatch, CommandWord.opcKnown, CommandWord.dirAllowed,
    CommandWord.reservedZero, CommandWord.opc, CommandWord.dir, CommandWord.rsv, operandCount]

theorem combine : Statement .combine :=
  ⟨by decide, by simp [Instr.hostIssuable, encode]⟩

theorem refill : Statement .refill :=
  ⟨by decide, by simp [Instr.hostIssuable, encode]⟩

end Sys2Proof.Laws.EncodesWellFormed
end

