-- ==== Sys2Proof/Laws/Sequencer.lean ====
section
/-! SUPPORT. The sequencer's loop (42_update R144): what one COMBINE leads to, what one COMBINE and the REFILL after it
lead to, and from them every way a run can end. -/

namespace Sys2Proof.Machine

/-- A COMBINE is next, and CURSOR is inside the block. -/
structure State.Combining (c : Config) (s : State) : Prop where
  seq : s.seq = Seq.combine
  waiting : s.waiting = false
  cursor : s.inst.cursor < c.blockSize
  rem : s.rem ≠ []

theorem State.Combining.rem_pos {c : Config} {s : State} (h : s.Combining c) : 0 < s.rem.length :=
  List.length_pos_iff.mpr h.rem

/-- A COMBINE that takes the rest of the block. -/
theorem State.chunkLength_full {c : Config} {s : State} (h : c.blockSize ≤ s.inst.cursor + s.rem.length) :
    s.chunkLength c = c.blockSize - s.inst.cursor := by
  unfold State.chunkLength
  omega

/-- A COMBINE that takes all of REM. -/
theorem State.chunkLength_all {c : Config} {s : State} (h : s.inst.cursor + s.rem.length ≤ c.blockSize) :
    s.chunkLength c = s.rem.length := by
  unfold State.chunkLength
  omega

/-! ## One micro-operation -/

/-- The REFILL after a COMBINE that reached the end of the block. -/
def State.atBlockEnd (c : Config) (s : State) : State := { s.combineChunk c with seq := Seq.refill }

theorem microStep_combine_full {c : Config} {s : State} (h : s.Combining c)
    (hb : c.blockSize ≤ s.inst.cursor + s.rem.length) : microStep c s = .next (s.atBlockEnd c) := by
  have hc := h.cursor
  have hcur : s.inst.cursor + s.chunkLength c = c.blockSize := by
    rw [State.chunkLength_full hb]
    omega
  simp [microStep, h.seq, combineOp, hc, sequenced, State.advance, h.waiting, hcur, State.atBlockEnd]

theorem microStep_combine_end {c : Config} {s : State} (h : s.Combining c)
    (hb : s.inst.cursor + s.rem.length < c.blockSize) : microStep c s = .next (s.combineChunk c).finish := by
  have hc := h.cursor
  have hcur : s.inst.cursor + s.chunkLength c ≠ c.blockSize := by
    rw [State.chunkLength_all hb.le]
    omega
  simp [microStep, h.seq, combineOp, hc, sequenced, State.advance, h.waiting, hcur]

theorem microStep_refill {c : Config} {s : State} (h : s.seq = Seq.refill) :
    microStep c s = .next ((s.refill c true).advance c) := by
  simp [microStep, h, refillOp, sequenced]

/-- What follows a REFILL's good answer. -/
theorem State.advance_refilled {c : Config} {s : State} (h : s.seq = Seq.refill)
    (ha : s.answerAt c 0 = .returns c.blockSize) :
    (s.refill c true).advance c =
      if s.rem = [] then
        State.finish { s.called c with inst := s.inst.loadBlock (blockOf c s.inst.ctr s.inst.key) }
      else
        { s.called c with
          inst := s.inst.loadBlock (blockOf c s.inst.ctr s.inst.key), seq := Seq.combine } := by
  rw [State.refill_good true ha]
  simp [State.advance, ha, h]

/-- Nothing follows an error. -/
theorem State.advance_raise (c : Config) (status : Status) (f : Bool) (s : State) :
    (s.raise status f).advance c = s.raise status f := by simp [State.advance]

/-- Nothing follows a call without an answer. -/
theorem State.advance_waiting {c : Config} {s : State} (h : s.waiting = true) : s.advance c = s := by
  simp [State.advance, h]

/-! ## The loop, unfolded -/

theorem runSequencer_idle {c : Config} {s : State} (n : Nat) (h : s.seq = Seq.idle) :
    runSequencer c n s = .next s := by cases n <;> simp [runSequencer, h]

theorem runSequencer_waiting {c : Config} {s : State} (n : Nat) (h : s.waiting = true) :
    runSequencer c n s = .next s := by cases n <;> simp [runSequencer, h]

theorem runSequencer_step {c : Config} {s t : State} {n : Nat} (hw : s.waiting = false) (hs : s.seq ≠ Seq.idle)
    (hm : microStep c s = .next t) : runSequencer c (n + 1) s = runSequencer c n t := by
  simp [runSequencer, hw, hs, hm]

/-! ## One block -/

/-- The data end before the block does: one COMBINE, and the command is done. -/
theorem runSequencer_short {c : Config} {s : State} (n : Nat) (h : s.Combining c)
    (hb : s.inst.cursor + s.rem.length < c.blockSize) :
    runSequencer c (n + 1) s = .next (s.combineChunk c).finish := by
  rw [runSequencer_step h.waiting (by simp [h.seq]) (microStep_combine_end h hb)]
  exact runSequencer_idle n rfl

/-- The data reach the end of the block: a COMBINE and a REFILL. -/
theorem runSequencer_full {c : Config} {s : State} (n : Nat) (h : s.Combining c)
    (hb : c.blockSize ≤ s.inst.cursor + s.rem.length) :
    runSequencer c (n + 2) s = runSequencer c n (((s.atBlockEnd c).refill c true).advance c) := by
  rw [runSequencer_step h.waiting (by simp [h.seq]) (microStep_combine_full h hb)]
  exact runSequencer_step h.waiting Seq.refill_ne_idle (microStep_refill rfl)

/-- The state after a block is used up and the next one is loaded, with data left. -/
def State.nextBlock (c : Config) (s : State) : State :=
  { (s.atBlockEnd c).called c with
    inst := (s.atBlockEnd c).inst.loadBlock (blockOf c s.inst.ctr s.inst.key), seq := Seq.combine }

theorem State.answerAt_atBlockEnd (c : Config) (s : State) (j : Nat) :
    (s.atBlockEnd c).answerAt c j = s.answerAt c j := State.answerAt_congr rfl rfl rfl j

/-- Data left over after a block: the loop goes on from its next block. -/
theorem runSequencer_block {c : Config} {s : State} (n : Nat) (h : s.Combining c)
    (hb : c.blockSize < s.inst.cursor + s.rem.length) (ha : s.answerAt c 0 = .returns c.blockSize) :
    runSequencer c (n + 2) s = runSequencer c n (s.nextBlock c) := by
  have hr : (s.atBlockEnd c).rem ≠ [] := by
    have := h.cursor
    simp only [State.atBlockEnd, State.combineChunk_rem, State.chunkLength_full hb.le, ne_eq,
      List.drop_eq_nil_iff, not_le]
    omega
  rw [runSequencer_full n h hb.le,
    State.advance_refilled rfl (by rw [State.answerAt_atBlockEnd]; exact ha), if_neg hr]
  rfl

/-- The data end with the block: the next block is loaded and the command is done (R151). -/
theorem runSequencer_exact {c : Config} {s : State} (n : Nat) (h : s.Combining c)
    (hb : s.inst.cursor + s.rem.length = c.blockSize) (ha : s.answerAt c 0 = .returns c.blockSize) :
    runSequencer c (n + 2) s = .next (s.nextBlock c).finish := by
  have hr : (s.atBlockEnd c).rem = [] := by
    simp only [State.atBlockEnd, State.combineChunk_rem, State.chunkLength_full hb.ge, List.drop_eq_nil_iff]
    omega
  rw [runSequencer_full n h hb.ge,
    State.advance_refilled rfl (by rw [State.answerAt_atBlockEnd]; exact ha), if_pos hr]
  exact runSequencer_idle n rfl

/-- The REFILL at the end of the block fails. -/
theorem runSequencer_failed {c : Config} {s : State} (n : Nat) (h : s.Combining c)
    (hb : c.blockSize ≤ s.inst.cursor + s.rem.length) (ha : s.CallFails c 0) :
    runSequencer c (n + 2) s =
      .next (((s.atBlockEnd c).called c).raise .keystreamGenerationFailure true) := by
  have ha' : (s.atBlockEnd c).CallFails c 0 := by
    unfold State.CallFails at ha ⊢
    rwa [State.answerAt_atBlockEnd]
  rw [runSequencer_full n h hb, State.refill_failed true ha', State.advance_raise]
  exact runSequencer_idle n rfl

/-- The REFILL at the end of the block is not answered. -/
theorem runSequencer_unanswered {c : Config} {s : State} (n : Nat) (h : s.Combining c)
    (hb : c.blockSize ≤ s.inst.cursor + s.rem.length) (ha : s.answerAt c 0 = .never) :
    runSequencer c (n + 2) s = .next ((s.atBlockEnd c).called c) := by
  have ha' : (s.atBlockEnd c).answerAt c 0 = .never := by rw [State.answerAt_atBlockEnd]; exact ha
  have hw : ((s.atBlockEnd c).called c).waiting = true := by simp [ha']
  rw [runSequencer_full n h hb, State.refill_never true ha', State.advance_waiting hw]
  exact runSequencer_waiting n hw

/-! ## From one block to the next -/

theorem State.nextBlock_combining {c : Config} {s : State} (h : s.Combining c)
    (hb : c.blockSize < s.inst.cursor + s.rem.length) (ha : s.answerAt c 0 = .returns c.blockSize) :
    (s.nextBlock c).Combining c := by
  have hc := h.cursor
  refine ⟨rfl, ?_, ?_, ?_⟩
  · simp [State.nextBlock, State.answerAt_atBlockEnd, ha]
  · simp only [State.nextBlock, Instance.loadBlock_cursor]
    omega
  · simp only [State.nextBlock, State.called_rem, State.atBlockEnd, State.combineChunk_rem,
      State.chunkLength_full hb.le, ne_eq, List.drop_eq_nil_iff, not_le]
    omega

theorem State.nextBlock_rem_length {c : Config} {s : State}
    (hb : c.blockSize ≤ s.inst.cursor + s.rem.length) :
    (s.nextBlock c).rem.length = s.rem.length - (c.blockSize - s.inst.cursor) := by
  simp [State.nextBlock, State.atBlockEnd, State.chunkLength_full hb]

theorem State.answerAt_nextBlock (c : Config) (s : State) (j : Nat) :
    (s.nextBlock c).answerAt c j = s.answerAt c (1 + j) :=
  State.answerAt_after (s := s) (t := s.nextBlock c) (k := 1) rfl rfl
    (by simp [State.nextBlock, State.atBlockEnd]) j

/-- Induction over the blocks of a run: what holds of every way a run can end, and of a run if it holds of the run from
its next block on, holds of every run. -/
theorem Combining_induction {c : Config} {P : State → Prop}
    (short : ∀ s, s.Combining c → s.inst.cursor + s.rem.length < c.blockSize → P s)
    (exact : ∀ s, s.Combining c → s.inst.cursor + s.rem.length = c.blockSize →
      s.answerAt c 0 = .returns c.blockSize → P s)
    (block : ∀ s, s.Combining c → c.blockSize < s.inst.cursor + s.rem.length →
      s.answerAt c 0 = .returns c.blockSize → P (s.nextBlock c) → P s)
    (failed : ∀ s, s.Combining c → c.blockSize ≤ s.inst.cursor + s.rem.length → s.CallFails c 0 → P s)
    (unanswered : ∀ s, s.Combining c → c.blockSize ≤ s.inst.cursor + s.rem.length → s.answerAt c 0 = .never → P s)
    (s : State) (h : s.Combining c) : P s := by
  generalize hn : s.rem.length = n
  induction n using Nat.strong_induction_on generalizing s with
  | _ n ih =>
    rcases Nat.lt_or_ge (s.inst.cursor + s.rem.length) c.blockSize with hb | hb
    · exact short s h hb
    · rcases s.answer_cases c 0 with ha | ha | ha
      · rcases Nat.eq_or_lt_of_le hb with he | hl
        · exact exact s h he.symm ha
        · have hlen := State.nextBlock_rem_length hb
          have hc := h.cursor
          have hp := h.rem_pos
          exact block s h hl ha (ih _ (by omega) _ (State.nextBlock_combining h hl ha) rfl)
      · exact failed s h hb ha
      · exact unanswered s h hb ha

end Sys2Proof.Machine
end

