-- ==== Sys2Proof/Laws/Step.lean ====
section
/-! SUPPORT. What a step is in each situation, and the decoder read as cases. -/

namespace Sys2Proof.Machine

/-- Reset is not asserted. -/
def State.NoReset (s : State) : Prop := ∀ rest, s.inputs ≠ .reset :: rest

/-! ## The decoder -/

theorem decodeNew_eq_ok {dir : Direction} {operands : List Bytes} {i : Instr} :
    decodeNew dir operands = .ok i ↔ ∃ tag key iv, operands = [tag, key, iv] ∧ i = .new dir tag key iv := by
  match operands with
  | [] | [_] | [_, _] | _ :: _ :: _ :: _ :: _ => simp [decodeNew]
  | [a, b, d] => simp [decodeNew, eq_comm]

theorem decodeUpdate_eq_ok {operands : List Bytes} {i : Instr} :
    decodeUpdate operands = .ok i ↔ ∃ data, operands = [data] ∧ i = .update data := by
  match operands with
  | [] | _ :: _ :: _ => simp [decodeUpdate]
  | [a] => simp [decodeUpdate, eq_comm]

/-- A micro-operation's code (30_encoding R76). -/
theorem decodeUop_eq_ok {code : SeqCode} {i : Instr} :
    decodeUop code = .ok i ↔ (code = Seq.combine ∧ i = .combine) ∨ (code = Seq.refill ∧ i = .refill) := by
  unfold decodeUop Seq.combine Seq.refill
  split
  · next h => simp [h, eq_comm]
  · split
    · next h => simp [h, eq_comm]
    · next h₁ h₂ => simp [h₁, h₂]

/-! ## The arms of exec -/

theorem exec_new (dir : Direction) (tag key iv : Bytes) (s : State) :
    exec (.new dir tag key iv) s = .next (newCommand Config.hardware tag key iv s) := rfl

theorem exec_update (data : Bytes) (s : State) :
    exec (.update data) s = updateCommand Config.hardware data s := rfl

theorem exec_combine (s : State) : exec .combine s = combineOp Config.hardware s := rfl

theorem exec_refill (s : State) : exec .refill s = .next (s.refill Config.hardware true) := rfl

/-! ## The step -/

theorem step_reset {s : State} {rest : List Input} (h : s.inputs = .reset :: rest) :
    step s = .next (s.afterReset rest) := by simp [step, fetch, h]

/-- Nothing happens while the primitive has not answered (70_reset_and_hazards R236). -/
theorem step_waiting {s : State} (hr : s.NoReset) (hw : s.waiting = true) : step s = .next s := by
  unfold step fetch
  rcases hi : s.inputs with _ | ⟨⟨w, o⟩ | _, rest⟩
  · simp [fetchRunning, hw]
  · simp [fetchRunning, hw]
  · exact absurd hi (hr rest)

/-- The engine waits for a command. -/
theorem step_noInput {s : State} (hi : s.inputs = []) (hs : s.seq = Seq.idle) : step s = .next s := by
  unfold step fetch
  simp [hi, fetchRunning, hs]

theorem step_command {s : State} {w : CommandWord} {operands : List Bytes} {rest : List Input}
    (hi : s.inputs = .command w operands :: rest) (hw : s.waiting = false) (hs : s.seq = Seq.idle) :
    step s = match decodeCommand w operands with
      | .ok i => exec i { s with inputs := rest }
      | .error _ => .next (State.rejectCommand { s with inputs := rest }) := by
  have hf : fetch s = .command w operands rest := by simp [fetch, hi, fetchRunning, hw, hs]
  unfold step
  rw [hf]
  rfl

/-- Inside a command the step is the sequencer's round. -/
theorem step_microStep {s : State} (hr : s.NoReset) (hw : s.waiting = false) (hs : s.seq ≠ Seq.idle) :
    step s = microStep Config.hardware s := by
  have hf : fetch s = .microOp s.seq := by
    unfold fetch
    rcases hi : s.inputs with _ | ⟨⟨w, o⟩ | _, rest⟩
    · simp [fetchRunning, hw, hs]
    · simp [fetchRunning, hw, hs]
    · exact absurd hi (hr rest)
  unfold step microStep
  rw [hf]
  simp only [decode, decodeUop, Seq.combine, Seq.refill]
  by_cases hc : s.seq = 0b01#2
  · simp [hc, exec_combine]
  · by_cases hf' : s.seq = 0b10#2
    · simp [hf', exec_refill, refillOp]
    · simp [hc, hf']

/-! ## Runs -/

theorem core_run_zero (s : State) : Sys2Proof.core.run 0 s = .next s := rfl

/-- A run of `n + 1` steps whose first step answers a next state. -/
theorem core_run_next {s t : State} (n : Nat) (h : step s = .next t) :
    Sys2Proof.core.run (n + 1) s = Sys2Proof.core.run n t := by
  have h' : Sys2Proof.core.step s = .next t := h
  simp only [Host.Core.run, h']

theorem core_run_fault {s : State} {f : Fault} (n : Nat) (h : step s = .fault f) :
    Sys2Proof.core.run (n + 1) s = .fault f := by
  have h' : Sys2Proof.core.step s = .fault f := h
  simp only [Host.Core.run, h']

theorem core_run_refused {s : State} {r : Refusal} (n : Nat) (h : step s = .refused r) :
    Sys2Proof.core.run (n + 1) s = .refused r := by
  have h' : Sys2Proof.core.step s = .refused r := h
  simp only [Host.Core.run, h']

/-! ## UPDATE's checks -/

theorem updateCommand_noInstance {c : Config} {s : State} (data : Bytes) (h : s.inst.valid = false) :
    updateCommand c data s = .next (s.accept.raise .noInstance false) := by simp [updateCommand, h]

theorem updateCommand_failed {c : Config} {s : State} (data : Bytes) (h : s.inst.valid = true)
    (hf : s.inst.failed = true) :
    updateCommand c data s = .next (s.accept.raise .keystreamGenerationFailure false) := by
  simp [updateCommand, h, hf]

theorem updateCommand_empty {c : Config} {s : State} (h : s.inst.Live) :
    updateCommand c [] s = .next (s.accept.deliver .ok []) := by simp [updateCommand, h.valid, h.failed]

theorem updateCommand_loop {c : Config} {s : State} {data : Bytes} (h : s.inst.Live) (hd : data ≠ []) :
    updateCommand c data s = runSequencer c (2 * data.length) (s.startUpdate data) := by
  simp [updateCommand, h.valid, h.failed, hd, roundBound]

theorem State.startUpdate_combining {c : Config} {s : State} {data : Bytes}
    (hc : s.inst.cursor < c.blockSize) (hd : data ≠ []) : (s.startUpdate data).Combining c :=
  ⟨rfl, rfl, hc, hd⟩

/-- An UPDATE that finds CURSOR at the end of the block stops with COMBINE's fault. -/
theorem updateCommand_atBlockEnd {c : Config} {s : State} {data : Bytes} (h : s.inst.Live) (hd : data ≠ [])
    (hc : c.blockSize ≤ s.inst.cursor) : updateCommand c data s = .fault .combineAtBlockEnd := by
  rw [updateCommand_loop h hd]
  obtain ⟨m, hm⟩ : ∃ m, 2 * data.length = m + 1 :=
    ⟨2 * data.length - 1, by have := List.length_pos_iff.mpr hd; omega⟩
  rw [hm]
  simp [runSequencer, microStep, combineOp, sequenced, Nat.not_lt.mpr hc]

/-! ## Nothing is lost: delivering on a state between commands -/

/-- Accepting a command and returning at once leaves a state between commands as it was, but for the result. -/
theorem State.Idle.deliver {s : State} (h : s.Idle) (status : Status) (out : Bytes) :
    s.deliver status out = { s with results := s.results ++ [⟨status, out⟩] } := by
  simp [State.deliver, h.seq, h.rem, h.outacc, h.snap, h.waiting]

theorem State.Idle.accept_deliver {s : State} (h : s.Idle) (status : Status) (out : Bytes) :
    s.accept.deliver status out = { s with results := s.results ++ [⟨status, out⟩] } := by
  simp [State.deliver, State.accept, h.seq, h.rem, h.outacc, h.snap, h.waiting]

theorem State.Idle.accept_raise {s : State} (h : s.Idle) (status : Status) :
    s.accept.raise status false = { s with results := s.results ++ [⟨status, []⟩] } := by
  simp [State.raise, State.deliver, State.accept, h.seq, h.rem, h.outacc, h.snap, h.waiting]

theorem State.deliver_idle (status : Status) (out : Bytes) (s : State) : (s.deliver status out).Idle :=
  ⟨rfl, rfl, rfl, rfl, rfl⟩

theorem State.raise_idle (status : Status) (f : Bool) (s : State) : (s.raise status f).Idle :=
  ⟨rfl, rfl, rfl, rfl, rfl⟩

theorem State.afterReset_idle (s : State) (rest : List Input) : (s.afterReset rest).Idle :=
  ⟨rfl, rfl, rfl, rfl, rfl⟩

end Sys2Proof.Machine
end

