-- ==== Sys2Proof/Laws/Runs.lean ====
section
/-! SUPPORT. Whole runs of the sequencer, by induction over their blocks: the closed form of a run whose calls are all
answered, and everything a run can leave however it ends. -/

namespace Sys2Proof.Machine

/-! ## Counters, blocks and requests from one block to the next -/

theorem counter_succ_add (ctr : Counter) (j : Nat) :
    ctr + 1 + BitVec.ofNat 64 j = ctr + BitVec.ofNat 64 (j + 1) := by
  apply BitVec.eq_of_toNat_eq
  simp [BitVec.toNat_add]
  omega

theorem Instance.upcoming_length {c : Config} {r : Instance} (k : Nat) (h : r.ksbuf.length = c.blockSize) :
    (r.upcoming c k).length = (c.blockSize - r.cursor) + k * c.blockSize := by
  simp [Instance.upcoming, h, List.length_flatMap]

theorem State.nextBlock_inst_ctr (c : Config) (s : State) : (s.nextBlock c).inst.ctr = s.inst.ctr + 1 := rfl
theorem State.nextBlock_inst_key (c : Config) (s : State) : (s.nextBlock c).inst.key = s.inst.key := rfl
theorem State.nextBlock_inst_cursor (c : Config) (s : State) : (s.nextBlock c).inst.cursor = 0 := rfl
theorem State.nextBlock_inst_ksbuf (c : Config) (s : State) :
    (s.nextBlock c).inst.ksbuf = blockOf c s.inst.ctr s.inst.key := rfl

/-- The keystream ahead is the rest of this block, then the keystream ahead of the next. -/
theorem State.upcoming_succ (c : Config) (s : State) (k : Nat) :
    s.inst.upcoming c (k + 1) = s.inst.ksbuf.drop s.inst.cursor ++ (s.nextBlock c).inst.upcoming c k := by
  unfold Instance.upcoming
  rw [List.range_succ_eq_map]
  simp only [List.flatMap_cons, List.flatMap_map, State.nextBlock_inst_ctr, State.nextBlock_inst_key,
    State.nextBlock_inst_cursor, State.nextBlock_inst_ksbuf, List.drop_zero, counter_succ_add]
  simp

theorem State.requestsFor_succ (c : Config) (s : State) (k : Nat) :
    s.inst.requestsFor c (k + 1) = s.request c :: (s.nextBlock c).inst.requestsFor c k := by
  unfold Instance.requestsFor
  rw [List.range_succ_eq_map]
  simp only [List.map_cons, List.map_map, State.nextBlock_inst_ctr, State.nextBlock_inst_key]
  congr 1
  · simp [State.request]
  · congr 1
    funext j
    simp only [Function.comp, Nat.succ_eq_add_one, counter_succ_add]

@[simp] theorem Instance.requestsFor_length (c : Config) (r : Instance) (k : Nat) :
    (r.requestsFor c k).length = k := by simp [Instance.requestsFor]

theorem State.nextBlock_requests (c : Config) (s : State) :
    (s.nextBlock c).requests = s.requests ++ [s.request c] := rfl

/-! ## The closed form -/

/-- `p + n` past the end of this block, counted from the next. -/
theorem boundary_succ {b p n : Nat} (hp : p < b) (h : b ≤ p + n) :
    (p + n) / b = (n - (b - p)) / b + 1 ∧ (p + n) % b = (n - (b - p)) % b := by
  have he : p + n = b + (n - (b - p)) := by omega
  rw [he, Nat.add_div_left _ (by omega), Nat.add_mod_left]
  exact ⟨rfl, rfl⟩

/-- The output over a block boundary: the rest of this block, then the output from the next block on. -/
theorem State.output_succ {c : Config} {s : State} (k : Nat) (hl : s.inst.ksbuf.length = c.blockSize)
    (hb : c.blockSize ≤ s.inst.cursor + s.rem.length) :
    (s.nextBlock c).outacc ++
        xorBytes (s.nextBlock c).rem (((s.nextBlock c).inst.upcoming c k).take (s.nextBlock c).rem.length) =
      s.outacc ++ xorBytes s.rem ((s.inst.upcoming c (k + 1)).take s.rem.length) := by
  have hn := State.chunkLength_full hb
  have hks : s.inst.ksRead s.inst.cursor (c.blockSize - s.inst.cursor) = s.inst.ksbuf.drop s.inst.cursor := by
    simp [Instance.ksRead, ← hl]
  have hout : (s.nextBlock c).outacc =
      s.outacc ++ xorBytes (s.rem.take (c.blockSize - s.inst.cursor)) (s.inst.ksbuf.drop s.inst.cursor) := by
    simp [State.nextBlock, State.atBlockEnd, hn, hks]
  have hrem : (s.nextBlock c).rem = s.rem.drop (c.blockSize - s.inst.cursor) := by
    simp [State.nextBlock, State.atBlockEnd, hn]
  have htake : (s.inst.ksbuf.drop s.inst.cursor ++ (s.nextBlock c).inst.upcoming c k).take s.rem.length =
      s.inst.ksbuf.drop s.inst.cursor ++
        ((s.nextBlock c).inst.upcoming c k).take (s.rem.length - (c.blockSize - s.inst.cursor)) := by
    rw [List.take_append, List.take_of_length_le (by simp [hl]; omega)]
    simp [hl]
  rw [hout, hrem, State.upcoming_succ, htake, List.append_assoc, ← xorBytes_append (by simp [hl]; omega),
    List.take_append_drop, List.length_drop]

/-- The registers after the data are those after the rest of the data, from the next block on. -/
theorem State.afterBytes_succ {c : Config} {s : State} (hc : s.inst.cursor < c.blockSize)
    (hb : c.blockSize ≤ s.inst.cursor + s.rem.length) :
    (s.nextBlock c).inst.afterBytes c (s.nextBlock c).rem.length = s.inst.afterBytes c s.rem.length := by
  obtain ⟨hd, hm⟩ := boundary_succ hc hb
  rw [State.nextBlock_rem_length hb]
  unfold Instance.afterBytes Instance.boundaries
  simp only [State.nextBlock_inst_cursor, Nat.zero_add, hd, hm]
  generalize (s.rem.length - (c.blockSize - s.inst.cursor)) / c.blockSize = k
  simp only [State.nextBlock, State.atBlockEnd, State.combineChunk_inst, Instance.loadBlock, counter_succ_add,
    Nat.succ_ne_zero, if_false, Nat.add_sub_cancel]
  rcases k with _ | k <;> simp

/-- A run whose calls are all answered (42_update R149). -/
theorem runSequencer_good {c : Config} (k : Nat) : ∀ (s : State) (n : Nat), s.Combining c →
    s.inst.ksbuf.length = c.blockSize → (s.inst.cursor + s.rem.length) / c.blockSize = k →
    s.AnswersGood c k → 2 * s.rem.length ≤ n →
    runSequencer c n s = .next (State.deliver .ok
      (s.outacc ++ xorBytes s.rem ((s.inst.upcoming c k).take s.rem.length))
      { s.afterCalls c k with inst := s.inst.afterBytes c s.rem.length }) := by
  induction k with
  | zero =>
    intro s n hC hl hk ha hn
    have hp := hC.rem_pos
    have hc := hC.cursor
    have hb : s.inst.cursor + s.rem.length < c.blockSize := by
      rcases Nat.div_eq_zero_iff.mp hk with h | h <;> omega
    obtain ⟨m, rfl⟩ : ∃ m, n = m + 1 := ⟨n - 1, by omega⟩
    rw [runSequencer_short m hC hb]
    simp [State.finish, State.deliver, State.combineChunk, State.chunkLength_all hb.le, State.afterCalls,
      Instance.requestsFor, Instance.afterBytes, Instance.boundaries, hk, Instance.upcoming, Instance.ksRead,
      Nat.mod_eq_of_lt hb]
  | succ k ih =>
    intro s n hC hl hk ha hn
    have hp := hC.rem_pos
    have hc := hC.cursor
    have hb : c.blockSize ≤ s.inst.cursor + s.rem.length := by
      by_contra hh
      rw [Nat.div_eq_of_lt (by omega)] at hk
      omega
    have a0 : s.answerAt c 0 = .returns c.blockSize := ha 0 (by omega)
    have hout := State.output_succ k hl hb
    have hinst := State.afterBytes_succ hc hb
    have hreq : (s.nextBlock c).requests ++ (s.nextBlock c).inst.requestsFor c k =
        s.requests ++ s.inst.requestsFor c (k + 1) := by
      rw [State.requestsFor_succ, State.nextBlock_requests, List.append_assoc, List.singleton_append]
    have hdiv : (s.rem.length - (c.blockSize - s.inst.cursor)) / c.blockSize = k := by
      have := (boundary_succ hc hb).1
      omega
    have hlen := State.nextBlock_rem_length hb
    obtain ⟨m, rfl⟩ : ∃ m, n = m + 2 := ⟨n - 2, by omega⟩
    rcases Nat.eq_or_lt_of_le hb with he | hlt
    · have hz : (s.nextBlock c).rem.length = 0 := by omega
      have hk0 : k = 0 := by rw [← hdiv, ← hlen, hz, Nat.zero_div]
      subst hk0
      have hrem := List.length_eq_zero_iff.mp hz
      rw [runSequencer_exact m hC he.symm a0, ← hout, ← hinst]
      simp only [State.finish, State.deliver, State.afterCalls, ← hreq, hrem]
      simp [Instance.afterBytes, Instance.boundaries, Instance.requestsFor, xorBytes, State.nextBlock,
        State.atBlockEnd, Instance.loadBlock]
    · rw [runSequencer_block m hC hlt a0,
        ih (s.nextBlock c) m (State.nextBlock_combining hC hlt a0) (by simp [State.nextBlock_inst_ksbuf])
          (by rw [State.nextBlock_inst_cursor, hlen, Nat.zero_add]; exact hdiv)
          (fun j hj => by rw [State.answerAt_nextBlock]; exact ha _ (by omega)) (by omega),
        hout, hinst]
      simp only [State.deliver, State.afterCalls, hreq]
      simp [State.nextBlock, State.atBlockEnd]

/-! ## Every way a run can end -/

/-- The registers of a run that waits for its call number `m`: COMBINE has used up the block (42_update R144). -/
def Instance.atCall (c : Config) (r : Instance) (m : Nat) : Instance :=
  { r with
    ctr := r.ctr + BitVec.ofNat 64 m, cursor := c.blockSize
    ksbuf := if m = 0 then r.ksbuf else blockOf c (r.ctr + BitVec.ofNat 64 (m - 1)) r.key }

/-- What a run from `s` leaves in `t`, `r` being the snapshot: the frame that every end has, and one of the three ends:
done, with every call answered; an error, at the first call that fails (R144, R146); a call without an answer (R236). -/
structure RunEnds (c : Config) (r : Instance) (s t : State) : Prop where
  inputs : t.inputs = s.inputs
  engine : t.engine = s.engine
  ends :
    (s.AnswersGood c (s.inst.boundaries c s.rem.length) ∧ t.Idle ∧
      t.requests = s.requests ++ s.inst.requestsFor c (s.inst.boundaries c s.rem.length) ∧
      t.inst = s.inst.afterBytes c s.rem.length ∧
      ∃ out, t.results = s.results ++ [⟨.ok, s.outacc ++ out⟩] ∧
        (s.inst.ksbuf.length = c.blockSize → out.length = s.rem.length)) ∨
    ∃ m < s.inst.boundaries c s.rem.length, s.AnswersGood c m ∧
      t.requests = s.requests ++ s.inst.requestsFor c (m + 1) ∧
      ((s.CallFails c m ∧ t.Idle ∧ t.inst = r.markFailed ∧
          t.results = s.results ++ [⟨.keystreamGenerationFailure, []⟩]) ∨
        (s.answerAt c m = .never ∧ t.waiting = true ∧ t.seq = Seq.refill ∧ t.snap = some r ∧
          t.inst = s.inst.atCall c m ∧ t.results = s.results))

theorem State.finish_idle (s : State) : s.finish.Idle := State.deliver_idle _ _ _

theorem State.boundaries_succ {c : Config} {s : State} (hc : s.inst.cursor < c.blockSize)
    (hb : c.blockSize ≤ s.inst.cursor + s.rem.length) :
    s.inst.boundaries c s.rem.length = (s.nextBlock c).inst.boundaries c (s.nextBlock c).rem.length + 1 := by
  rw [State.nextBlock_rem_length hb]
  simp only [Instance.boundaries, State.nextBlock_inst_cursor, Nat.zero_add]
  exact (boundary_succ hc hb).1

/-- The first answer and the answers from the next block on are the answers. -/
theorem State.answersGood_succ {c : Config} {s : State} {m : Nat} (h0 : s.answerAt c 0 = .returns c.blockSize)
    (h : (s.nextBlock c).AnswersGood c m) : s.AnswersGood c (m + 1) := by
  intro j hj
  rcases j with _ | j
  · exact h0
  · have := h j (by omega)
    rwa [State.answerAt_nextBlock, Nat.add_comm] at this

theorem State.callFails_succ {c : Config} {s : State} {m : Nat} :
    (s.nextBlock c).CallFails c m ↔ s.CallFails c (m + 1) := by
  unfold State.CallFails
  rw [State.answerAt_nextBlock, Nat.add_comm]

theorem State.atCall_succ (c : Config) (s : State) (m : Nat) :
    (s.nextBlock c).inst.atCall c m = s.inst.atCall c (m + 1) := by
  simp only [Instance.atCall, State.nextBlock, State.atBlockEnd, State.combineChunk_inst, Instance.loadBlock,
    counter_succ_add, Nat.succ_ne_zero, if_false, Nat.add_sub_cancel]
  rcases m with _ | m <;> simp

theorem State.requests_succ (c : Config) (s : State) (k : Nat) :
    (s.nextBlock c).requests ++ (s.nextBlock c).inst.requestsFor c k =
      s.requests ++ s.inst.requestsFor c (k + 1) := by
  rw [State.requestsFor_succ, State.nextBlock_requests, List.append_assoc, List.singleton_append]

theorem State.boundaries_zero {c : Config} {s : State} (hb : s.inst.cursor + s.rem.length < c.blockSize) :
    s.inst.boundaries c s.rem.length = 0 := Nat.div_eq_of_lt hb

theorem State.boundaries_pos {c : Config} {s : State} (hc : s.inst.cursor < c.blockSize)
    (hb : c.blockSize ≤ s.inst.cursor + s.rem.length) : 0 < s.inst.boundaries c s.rem.length :=
  Nat.div_pos hb (by omega)

/-- Every run from a COMBINE ends, and ends in one of these ways. -/
theorem runSequencer_ends {c : Config} (r : Instance) (s : State) (hC : s.Combining c) :
    s.snap = some r → ∀ n, 2 * s.rem.length ≤ n → ∃ t, runSequencer c n s = .next t ∧ RunEnds c r s t := by
  refine Combining_induction (P := fun s => s.snap = some r → ∀ n, 2 * s.rem.length ≤ n →
    ∃ t, runSequencer c n s = .next t ∧ RunEnds c r s t) ?_ ?_ ?_ ?_ ?_ s hC
  · intro s hC hb hs n hn
    have hp := hC.rem_pos
    obtain ⟨m, rfl⟩ : ∃ m, n = m + 1 := ⟨n - 1, by omega⟩
    have hch := State.chunkLength_all hb.le
    have hk := State.boundaries_zero hb
    refine ⟨_, runSequencer_short m hC hb, rfl, rfl, .inl ⟨?_, State.finish_idle _, ?_, ?_, _, rfl, ?_⟩⟩
    · rw [hk]
      exact fun j hj => absurd hj (Nat.not_lt_zero j)
    · simp [hk, State.finish, Instance.requestsFor]
    · simp [State.finish, hch, Instance.afterBytes, hk, Nat.mod_eq_of_lt hb]
    · intro hl
      simp [Instance.ksRead, hch, hl]
      omega
  · intro s hC hb ha hs n hn
    have hp := hC.rem_pos
    have hc := hC.cursor
    obtain ⟨m, rfl⟩ : ∃ m, n = m + 2 := ⟨n - 2, by omega⟩
    have hch := State.chunkLength_full hb.ge
    have hlen := State.nextBlock_rem_length hb.ge
    have hz : (s.nextBlock c).rem.length = 0 := by omega
    have hk : s.inst.boundaries c s.rem.length = 1 := by
      rw [State.boundaries_succ hc hb.ge, hz]
      simp [Instance.boundaries, State.nextBlock_inst_cursor]
    refine ⟨_, runSequencer_exact m hC hb ha, rfl, rfl, .inl ⟨?_, State.finish_idle _, ?_, ?_, _, rfl, ?_⟩⟩
    · rw [hk]
      exact State.answersGood_succ ha fun j hj => absurd hj (Nat.not_lt_zero j)
    · rw [hk, State.requestsFor_succ]
      simp [State.finish, State.nextBlock_requests, Instance.requestsFor]
    · rw [← State.afterBytes_succ hc hb.ge, hz]
      simp [State.finish, Instance.afterBytes, Instance.boundaries, State.nextBlock,
        State.atBlockEnd, Instance.loadBlock]
    · intro hl
      simp [Instance.ksRead, hch, hl]
      omega
  · intro s hC hb ha ih hs n hn
    have hp := hC.rem_pos
    have hc := hC.cursor
    have hlen := State.nextBlock_rem_length hb.le
    have hch := State.chunkLength_full hb.le
    have hk := State.boundaries_succ hc hb.le
    obtain ⟨m, rfl⟩ : ∃ m, n = m + 2 := ⟨n - 2, by omega⟩
    obtain ⟨t, ht, hi, he, hends⟩ := ih hs m (by omega)
    refine ⟨t, by rw [runSequencer_block m hC hb ha]; exact ht, hi, he, ?_⟩
    rcases hends with ⟨hg, h1, h2, h3, out, h4, h5⟩ | ⟨k, hlt, hg, h1, hend⟩
    · refine .inl ⟨?_, h1, ?_, ?_, _, by
        rw [h4]
        simp only [State.nextBlock, State.called_outacc, State.atBlockEnd, State.combineChunk_outacc,
          List.append_assoc]
        rfl, ?_⟩
      · rw [hk]
        exact State.answersGood_succ ha hg
      · rw [hk, h2, State.requests_succ]
      · rw [h3, State.afterBytes_succ hc hb.le]
      · intro hl
        have := h5 (by simp [State.nextBlock_inst_ksbuf])
        simp [Instance.ksRead, hch, hl, this, hlen]
        omega
    · refine .inr ⟨k + 1, by omega, State.answersGood_succ ha hg, by rw [h1, State.requests_succ], ?_⟩
      rcases hend with ⟨hf, h2⟩ | ⟨hv, h2, h3, h4, h5, h6⟩
      · exact .inl ⟨State.callFails_succ.mp hf, h2⟩
      · refine .inr ⟨?_, h2, h3, h4, by rw [h5, State.atCall_succ], h6⟩
        rwa [State.answerAt_nextBlock, Nat.add_comm] at hv
  · intro s hC hb ha hs n hn
    have hp := hC.rem_pos
    obtain ⟨m, rfl⟩ : ∃ m, n = m + 2 := ⟨n - 2, by omega⟩
    refine ⟨_, runSequencer_failed m hC hb ha, rfl, rfl, .inr ⟨0, State.boundaries_pos hC.cursor hb,
      fun j hj => absurd hj (Nat.not_lt_zero j), ?_, .inl ⟨ha, State.raise_idle _ _ _, ?_, rfl⟩⟩⟩
    · rw [State.requestsFor_succ]
      simp [State.atBlockEnd, State.request, Instance.requestsFor]
    · simp [State.atBlockEnd, hs]
  · intro s hC hb ha hs n hn
    have hp := hC.rem_pos
    have hc := hC.cursor
    obtain ⟨m, rfl⟩ : ∃ m, n = m + 2 := ⟨n - 2, by omega⟩
    have hch := State.chunkLength_full hb
    refine ⟨_, runSequencer_unanswered m hC hb ha, rfl, rfl, .inr ⟨0, State.boundaries_pos hc hb,
      fun j hj => absurd hj (Nat.not_lt_zero j), ?_, .inr ⟨ha, ?_, rfl, hs, ?_, rfl⟩⟩⟩
    · rw [State.requestsFor_succ]
      simp [State.atBlockEnd, State.request, Instance.requestsFor]
    · simp [State.answerAt_atBlockEnd, ha]
    · have hcur : s.inst.cursor + (c.blockSize - s.inst.cursor) = c.blockSize := by omega
      simp [State.atBlockEnd, hch, Instance.atCall, hcur]

/-- Everything that UPDATE can do, whatever the state: an error that its checks find, empty data, COMBINE's fault at the
end of the block, or a run. -/
theorem updateCommand_cases (c : Config) (data : Bytes) (s : State) :
    (s.inst.valid = false ∧ updateCommand c data s = .next (s.accept.raise .noInstance false)) ∨
    (s.inst.valid = true ∧ s.inst.failed = true ∧
      updateCommand c data s = .next (s.accept.raise .keystreamGenerationFailure false)) ∨
    (s.inst.Live ∧ data = [] ∧ updateCommand c data s = .next (s.accept.deliver .ok [])) ∨
    (s.inst.Live ∧ data ≠ [] ∧ c.blockSize ≤ s.inst.cursor ∧
      updateCommand c data s = .fault .combineAtBlockEnd) ∨
    (s.inst.Live ∧ data ≠ [] ∧ s.inst.cursor < c.blockSize ∧
      ∃ t, updateCommand c data s = .next t ∧ RunEnds c s.inst (s.startUpdate data) t) := by
  cases hv : s.inst.valid with
  | false => exact .inl ⟨rfl, updateCommand_noInstance data hv⟩
  | true =>
    cases hf : s.inst.failed with
    | true => exact .inr (.inl ⟨rfl, rfl, updateCommand_failed data hv hf⟩)
    | false =>
      have hL : s.inst.Live := ⟨hv, hf⟩
      by_cases hd : data = []
      · subst hd
        exact .inr (.inr (.inl ⟨hL, rfl, updateCommand_empty hL⟩))
      · rcases Nat.lt_or_ge s.inst.cursor c.blockSize with hc | hc
        · obtain ⟨t, ht, he⟩ := runSequencer_ends s.inst (s.startUpdate data)
            (State.startUpdate_combining hc hd) rfl (2 * data.length) le_rfl
          exact .inr (.inr (.inr (.inr ⟨hL, hd, hc, t, by rw [updateCommand_loop hL hd]; exact ht, he⟩)))
        · exact .inr (.inr (.inr (.inl ⟨hL, hd, hc, updateCommand_atBlockEnd hL hd hc⟩)))

end Sys2Proof.Machine
end

