-- ==== Sys2Proof/Machine/Listing.lean ====
section
/-! DEFINITION. The textual syntax of a command (30_encoding R79). It has no effect on the machine. -/

namespace Sys2Proof.Machine

/-- A hexadecimal digit. -/
def hexDigit (n : Nat) : Char := if n < 10 then Char.ofNat (48 + n) else Char.ofNat (55 + n)

/-- A byte as two hexadecimal digits (00_scope R13). -/
def byteText (b : Byte) : List Char := [hexDigit (b.toNat / 16), hexDigit (b.toNat % 16)]

/-- The character that stands around a string (R79). -/
def quoteChar : Char := Char.ofNat 34

/-- A byte string (R79): `[]`, or its bytes in hexadecimal between quotes (log entry 18). -/
def bytesText (bs : Bytes) : List Char :=
  if bs = [] then "[]".toList else ['x', quoteChar] ++ bs.flatMap byteText ++ [quoteChar]

/-- A tag (R79): a quoted string, each character one byte: the character of the byte's own code, with no escape, also for
a quote and for bytes from 80 up (DESIGN CHOICE, log entry 18). -/
def tagText (tag : Bytes) : List Char := [quoteChar] ++ tag.map (fun b => Char.ofNat b.toNat) ++ [quoteChar]

/-- `enc` or `dec` (R79). -/
def directionText : Direction → List Char
  | .encrypt => "enc".toList
  | .decrypt => "dec".toList

/-- A command in the syntax of R79; `none` for a micro-operation, which has none. -/
def commandText : Instr → Option (List Char)
  | .new dir tag key iv =>
    some ("NEW ".toList ++ tagText tag ++ ", ".toList ++ bytesText key ++ ", ".toList ++ bytesText iv ++ ", ".toList
      ++ directionText dir)
  | .update data => some ("UPDATE ".toList ++ bytesText data)
  | .combine => none
  | .refill => none

end Sys2Proof.Machine
end

