-- ==== Sys2Proof/Tests/Slice0.lean ====
section
/-! SUPPORT. The model's own tests: the checks on ill-formed encodings, decoding of words written out from the spec, the
vectors of 95_test_vectors on its test primitive, and for each statement of Obligations.lean a state and operands that
meet its hypotheses. -/

namespace Sys2Proof.Tests
open Sys2Proof.Machine

/-! ## The checks of WellFormed refuse -/

/-- OPC = 0000 (95_test_vectors E4). -/
theorem test_wf_opcKnown : (Encoded.command 0x00000000#32 []).wellFormed = false := by decide

/-- UPDATE with DIR = 1 (E7). -/
theorem test_wf_dirAllowed : (Encoded.command 0x00000012#32 [[]]).wellFormed = false := by decide

/-- Bit 5 set (E8), bit 31 set (E10). -/
theorem test_wf_reservedZero :
    (Encoded.command 0x00000022#32 [[]]).wellFormed = false ∧
      (Encoded.command 0x80000001#32 [[], [], []]).wellFormed = false := by decide

/-- NEW with two operands, UPDATE with two. -/
theorem test_wf_operandsMatch :
    (Encoded.command 0x00000001#32 [[], []]).wellFormed = false ∧
      (Encoded.command 0x00000002#32 [[], []]).wellFormed = false := by decide

/-- SEQ = 00 and SEQ = 11 (30_encoding R77). -/
theorem test_wf_isUop : (Encoded.uop 0b00#2).wellFormed = false ∧ (Encoded.uop 0b11#2).wellFormed = false := by decide

/-- What passes: the words of R71 and the codes of R76. -/
theorem test_wf_legal :
    (Encoded.command 0x00000011#32 [[1], [2], [3]]).wellFormed = true ∧
      (Encoded.command 0x00000002#32 [[1]]).wellFormed = true ∧
      (Encoded.uop 0b01#2).wellFormed = true ∧ (Encoded.uop 0b10#2).wellFormed = true := by decide

/-! ## Decoding, from words written out bit by bit (30_encoding R71: RSV 31:5, DIR 4, OPC 3:0; R76) -/

/-- NEW, DIR = 0, OPC = 0001 (E1). -/
theorem test_decode_new_encrypt :
    decode (.command 0b000000000000000000000000000_0_0001#32 [[1], [2], [3]]) =
      .ok (.new .encrypt [1] [2] [3]) := by rfl

/-- NEW, DIR = 1, OPC = 0001 (E2). -/
theorem test_decode_new_decrypt :
    decode (.command 0b000000000000000000000000000_1_0001#32 [[1], [2], [3]]) =
      .ok (.new .decrypt [1] [2] [3]) := by rfl

/-- UPDATE, DIR = 0, OPC = 0010 (E3). -/
theorem test_decode_update :
    decode (.command 0b000000000000000000000000000_0_0010#32 [[7, 8]]) = .ok (.update [7, 8]) := by rfl

/-- SEQ = 01. -/
theorem test_decode_combine : decode (.uop 0b01#2) = .ok .combine := by rfl

/-- SEQ = 10. -/
theorem test_decode_refill : decode (.uop 0b10#2) = .ok .refill := by rfl

/-- E5 to E10, each rejected by name. -/
theorem test_decode_rejects :
    decode (.command 0x00000003#32 [[]]) = .error .reservedOpcode ∧
      decode (.command 0x0000000F#32 [[]]) = .error .reservedOpcode ∧
      decode (.command 0x00000012#32 [[]]) = .error .directionOnUpdate ∧
      decode (.command 0x00000022#32 [[]]) = .error .reservedBits ∧
      decode (.command 0x00000101#32 [[]]) = .error .reservedBits ∧
      decode (.command 0x80000001#32 [[], [], []]) = .error .reservedBits ∧
      decode (.command 0x00000001#32 [[], []]) = .error .operandCount ∧
      decode (.uop 0b11#2) = .error .notMicroOp := ⟨rfl, rfl, rfl, rfl, rfl, rfl, rfl, rfl⟩

/-- The rows of spec/opcode_table.json, by their own words. -/
theorem test_decode_tableRows :
    decodeTableWord 32 0x00000001 = some (.new .encrypt [] [] []) ∧
      decodeTableWord 32 0x00000002 = some (.update []) ∧
      decodeTableWord 8 0x01 = some .combine ∧ decodeTableWord 8 0x02 = some .refill := by decide

/-- Words of no row. -/
theorem test_decode_noRow :
    decodeTableWord 32 0x00000012 = none ∧ decodeTableWord 8 0x03 = none ∧ decodeTableWord 8 0x00 = none ∧
      decodeTableWord 8 0x05 = none := by decide

/-- The encoder gives the words of R71. -/
theorem test_encode :
    encode (.new .decrypt [1] [2] [3]) = .command 0x00000011#32 [[1], [2], [3]] ∧
      encode (.update [7]) = .command 0x00000002#32 [[7]] := by decide

/-! ## The vectors of 95_test_vectors, on its test primitive (`KSF_T`, B = 4) -/

/-- The configuration of the vectors: `KSF_T(length, nb, k)[i] = (16 * nb[0] + k[0] + i) mod 256`, B = 4. -/
def vectorConfig : Config :=
  { blockSize := 4, laneWidth := 1
    keystreamByte := fun _ nb k i => BitVec.ofNat 8 (16 * (nb.getD 0 0).toNat + (k.getD 0 0).toNat + i)
    freeAnswer := fun _ _ => .returns 4 }

/-- `T` of the vectors. -/
def tag : Bytes := [0x73, 0x61, 0x6C, 0x73, 0x61, 0x32, 0x30, 0x2D, 0x63, 0x74, 0x72]

/-- `zeros(n)`. -/
def zeros (n : Nat) : Bytes := List.replicate n 0

/-- A state between commands with `(VALID, FAILED, CTR, CURSOR, KSBUF)` and KEY = zeros(32). -/
def between (valid failed : Bool) (ctr : Counter) (cursor : Nat) (ksbuf : Bytes) : State :=
  { State.reset with inst := { valid, failed, key := .zeros, ctr, ksbuf, cursor } }

/-- The state left, or `State.reset` where there is none. -/
def left (o : Host.Outcome State Fault Refusal) : State :=
  match o with
  | .next t => t
  | .fault _ => State.reset
  | .refused _ => State.reset

/-- `(VALID, FAILED, CTR, CURSOR, KSBUF)`. -/
def shown (s : State) : Bool × Bool × Counter × Nat × Bytes :=
  (s.inst.valid, s.inst.failed, s.inst.ctr, s.inst.cursor, s.inst.ksbuf)

/-- The nonces of the calls made. -/
def calls (s : State) : List Bytes := s.requests.map (·.nonce)

/-- N1. -/
theorem test_new_N1 :
    let t := newCommand vectorConfig tag (zeros 32) [1, 0, 0, 0, 0, 0, 0, 0] State.reset
    shown t = (true, false, 2, 0, [0x10, 0x11, 0x12, 0x13]) ∧ t.results = [⟨.ok, []⟩] ∧
      calls t = [[1, 0, 0, 0, 0, 0, 0, 0]] := by decide

/-- N14 on the instance of N1 with another IV: a string of 3 bytes is a failure and changes nothing. -/
theorem test_new_N14 :
    let s := { between true false 2 0 [0x10, 0x11, 0x12, 0x13] with answers := [.returns 3] }
    let t := newCommand vectorConfig tag (zeros 32) [2, 0, 0, 0, 0, 0, 0, 0] s
    t.inst = s.inst ∧ t.results = [⟨.keystreamGenerationFailure, []⟩] := by decide

/-- F2: the counter wraps. -/
theorem test_refill_F2 :
    shown (left (refillOp vectorConfig (between true false 0xFFFFFFFFFFFFFFFF 4 [0, 0, 0, 0]))) =
      (true, false, 0, 0, [0xF0, 0xF1, 0xF2, 0xF3]) := by decide

/-- F7: the nonce bytes. -/
theorem test_refill_F7 :
    calls (left (refillOp vectorConfig (between true false 0x0123456789ABCDEF 4 [0, 0, 0, 0]))) =
      [[0xEF, 0xCD, 0xAB, 0x89, 0x67, 0x45, 0x23, 0x01]] := by decide

/-- C1. -/
theorem test_combine_C1 :
    let t := left (combineOp vectorConfig { between true false 2 3 [0x10, 0x11, 0x12, 0x13] with rem := [0xFF] })
    t.outacc = [0xEC] ∧ t.inst.cursor = 4 ∧ t.rem = [] := by decide

/-- C2. -/
theorem test_combine_C2 :
    let t := left (combineOp vectorConfig { between true false 2 0 [0x10, 0x11, 0x12, 0x13] with rem := zeros 6 })
    t.outacc = [0x10, 0x11, 0x12, 0x13] ∧ t.inst.cursor = 4 ∧ t.rem = [0, 0] := by decide

/-- U4. -/
theorem test_update_U4 :
    let t := left (updateCommand vectorConfig (zeros 9) (between true false 3 0 [0x20, 0x21, 0x22, 0x23]))
    shown t = (true, false, 5, 1, [0x40, 0x41, 0x42, 0x43]) ∧
      t.results = [⟨.ok, [0x20, 0x21, 0x22, 0x23, 0x30, 0x31, 0x32, 0x33, 0x40]⟩] ∧
      calls t = [[3, 0, 0, 0, 0, 0, 0, 0], [4, 0, 0, 0, 0, 0, 0, 0]] := by decide

/-- U6: the second call fails. -/
theorem test_update_U6 :
    let t := left (updateCommand vectorConfig (zeros 9)
      { between true false 2 0 [0x10, 0x11, 0x12, 0x13] with answers := [.returns 4, .fails] })
    shown t = (true, true, 2, 0, [0x10, 0x11, 0x12, 0x13]) ∧ t.results = [⟨.keystreamGenerationFailure, []⟩] ∧
      calls t = [[2, 0, 0, 0, 0, 0, 0, 0], [3, 0, 0, 0, 0, 0, 0, 0]] := by decide

/-- An UPDATE of two bytes in the syntax of 30_encoding R79, its bytes written in uppercase as in 95_test_vectors. -/
theorem test_listing : commandText (.update [0x0A, 0xFF]) = some "UPDATE x\"0AFF\"".toList := by decide

/-- The wide path on a length with a remainder: five bytes in lanes of 4 (43_combine R173). -/
theorem test_lanes : xorLanes 4 [1, 2, 3, 4, 5] [0x11, 0x11, 0x11, 0x11, 0x11] = [0x10, 0x13, 0x12, 0x15, 0x14] := by
  decide

/-! ## A table row's word is what the next step runs -/

theorem test_fetch_update :
    fetch (State.reset.withFetchWord 32 0x00000002) = .command 0x00000002#32 [[]] [] := by decide

theorem test_fetch_refill : fetch (State.reset.withFetchWord 8 0x02) = .microOp 0b10#2 := by decide

/-! ## Witnesses: what each statement of Obligations.lean assumes can be met

`B` is opaque, so these states carry the hardware's own block size: `seeded` is the instance that a NEW with an all-zero
key and IV leaves, with good answers to come. -/

/-- The registers after a NEW with an all-zero key and IV (40_construction R103). -/
def seededInst : Instance :=
  { valid := true, failed := false, key := .zeros, ctr := 1, cursor := 0
    ksbuf := blockOf Config.hardware 0 .zeros }

/-- Between commands, on that instance, with the answers given. -/
def seeded (answers : List Answer) : State := { State.reset with inst := seededInst, answers := answers }

/-- A good answer of the hardware's primitive. -/
def good : Answer := .returns Config.hardware.blockSize

/-- An UPDATE of one byte, in progress on that instance. -/
def running (answers : List Answer) : State := (seeded answers).startUpdate [0]

/-- A REFILL is next in that UPDATE, with `rem` still to combine. -/
def refilling (rem : Bytes) (answers : List Answer) : State :=
  { running answers with
    seq := Seq.refill, rem := rem, outacc := [0]
    inst := { seededInst with cursor := Config.hardware.blockSize } }

theorem reset_idle : State.reset.Idle := ⟨rfl, rfl, rfl, rfl, rfl⟩
theorem seeded_idle (a : List Answer) : (seeded a).Idle := ⟨rfl, rfl, rfl, rfl, rfl⟩
theorem seeded_live (a : List Answer) : (seeded a).inst.Live := ⟨rfl, rfl⟩
theorem seeded_sized (a : List Answer) : (seeded a).inst.Sized Config.hardware :=
  ⟨blockOf_length _ _ _, Nat.zero_le _⟩
theorem seeded_cursor (a : List Answer) : (seeded a).inst.cursor < Config.hardware.blockSize :=
  hardware_blockSize_pos
theorem seeded_tracks (a : List Answer) : (seeded a).inst.Tracks Config.hardware 0 0 :=
  ⟨rfl, by simp [seeded, seededInst], by simp [seeded, seededInst], by simp [seeded, seededInst]⟩
theorem noReset_of_empty {s : State} (h : s.inputs = []) : s.NoReset := fun rest h' => by
  rw [h] at h'
  cases h'

theorem seededInst_fresh : seededInst.Fresh Config.hardware := by simp [Instance.Fresh, seededInst]
theorem seeded_atRest (a : List Answer) : (seeded a).inst.AtRest Config.hardware :=
  ⟨seeded_sized a, fun _ => seeded_cursor a, fun _ => seededInst_fresh, fun _ => rfl⟩

/-- One byte from a fresh block reaches at most one boundary. -/
theorem seeded_boundaries (a : List Answer) : (seeded a).inst.boundaries Config.hardware 1 ≤ 1 := by
  show (0 + 1) / Config.hardware.blockSize ≤ 1
  exact Nat.div_le_self _ _

/-- `B` bytes from a fresh block reach one. -/
theorem seeded_block (a : List Answer) (d : Bytes) (h : d.length = Config.hardware.blockSize) :
    (seeded a).inst.boundaries Config.hardware d.length = 1 := by
  show (0 + d.length) / Config.hardware.blockSize = 1
  rw [Nat.zero_add, h, Nat.div_self hardware_blockSize_pos]

theorem good_one (s : State) (rest : List Answer) (h : s.answers = good :: rest) :
    s.AnswersGood Config.hardware 1 := by
  intro j hj
  obtain rfl : j = 0 := by omega
  simp [State.answerAt, h, good]

/-- An UPDATE of one byte whose call, if it makes one, is answered: it completes. -/
theorem oneByte (d : Byte) : ∃ t out, exec (.update [d]) (seeded [good]) = .next t ∧
    t.results = (seeded [good]).results ++ [⟨.ok, out⟩] := by
  rw [exec_update]
  have hg := good_one (seeded [good]) [] rfl
  rcases updateCommand_cases Config.hardware [d] (seeded [good]) with
    ⟨h, _⟩ | ⟨_, h, _⟩ | ⟨_, h, _⟩ | ⟨_, _, h, _⟩ | ⟨_, _, _, t, ht, he⟩
  · cases h
  · cases h
  · cases h
  · exact absurd (seeded_cursor [good]) (Nat.not_lt.mpr h)
  · rcases he.ends with ⟨_, _, _, _, out, h, _⟩ | ⟨m, hm, _, _, h⟩
    · exact ⟨t, _, ht, h⟩
    · have hb := seeded_boundaries [good]
      obtain rfl : m = 0 := by
        have : m < (seeded [good]).inst.boundaries Config.hardware 1 := hm
        omega
      have h0 : ((seeded [good]).startUpdate [d]).answerAt Config.hardware 0 = .returns Config.hardware.blockSize :=
        hg 0 (by omega)
      rcases h with ⟨hf, _⟩ | ⟨hv, _⟩
      · exact absurd h0 hf.ne_returns
      · rw [h0] at hv
        cases hv

/-- A string of `B` bytes from a fresh block, whose one call is answered as given, ends as that answer says. -/
def blockOfZeros : Bytes := List.replicate Config.hardware.blockSize 0

theorem blockOfZeros_length : blockOfZeros.length = Config.hardware.blockSize := by simp [blockOfZeros]

theorem blockOfZeros_ne : blockOfZeros ≠ [] := by
  intro h
  have := congrArg List.length h
  rw [blockOfZeros_length] at this
  exact absurd this (Nat.ne_of_gt hardware_blockSize_pos)

/-! ### Encoding -/

theorem witness_EncodingIsOneToOne : ∃ e i, decode e = .ok i := ⟨_, _, test_decode_update⟩

theorem witness_LittleEndianConversionsAreInverse : (zeros 8).length = 8 := rfl

/-- R14 at the greatest counter and on bytes that are all different. -/
theorem test_le64 :
    le64 0xFFFFFFFFFFFFFFFF = List.replicate 8 0xFF ∧ le64 0x0123456789ABCDEF =
      [0xEF, 0xCD, 0xAB, 0x89, 0x67, 0x45, 0x23, 0x01] ∧
      fromLe64 [0xEF, 0xCD, 0xAB, 0x89, 0x67, 0x45, 0x23, 0x01] = 0x0123456789ABCDEF := by decide

/-! ### The step -/

theorem witness_StepRunsThePresentedCommand : ∃ (s : State) (w : CommandWord) (o : List Bytes) (i : Instr),
    s.Idle ∧ s.inputs = .command w o :: [] ∧ decode (.command w o) = .ok i :=
  ⟨{ State.reset with inputs := [.command 0x00000002#32 [[7, 8]]] }, _, _, _, ⟨rfl, rfl, rfl, rfl, rfl⟩, rfl,
    test_decode_update⟩

theorem witness_StepRunsTheMicroOperation :
    (∃ s : State, s.NoReset ∧ s.waiting = false ∧ decode (.uop s.seq) = .ok .combine) ∧
      ∃ s : State, s.NoReset ∧ s.waiting = false ∧ decode (.uop s.seq) = .ok .refill :=
  ⟨⟨running [good], noReset_of_empty rfl, rfl, rfl⟩, ⟨refilling [] [good], noReset_of_empty rfl, rfl, rfl⟩⟩

/-- An illegal word (E7), NEW's word with two operands and with four, UPDATE's with none and with two. -/
theorem witness_IllegalCommandChangesNothing :
    ∀ c ∈ [((0x00000012#32 : CommandWord), [zeros 1]), (0x00000001#32, [[], []]), (0x00000011#32, [[], [], [], []]),
      (0x00000002#32, []), (0x00000002#32, [[], []])],
      ({ State.reset with inputs := [.command c.1 c.2] } : State).Idle ∧
        ¬ ((c.1 = 0x00000001#32 ∨ c.1 = 0x00000011#32) ∧ c.2.length = 3) ∧
        ¬ (c.1 = 0x00000002#32 ∧ c.2.length = 1) := by
  intro c hc
  refine ⟨⟨rfl, rfl, rfl, rfl, rfl⟩, ?_⟩
  revert c
  decide

/-- Reset between commands, inside an UPDATE, and with a command behind it. -/
theorem witness_ResetAbandonsTheCommand : ∃ s₁ s₂ s₃ : State, s₁.Idle ∧ s₁.inputs = .reset :: [] ∧
    s₂.seq = Seq.combine ∧ s₂.inputs = .reset :: [] ∧ s₃.inputs = .reset :: [.command 0x00000002#32 [[]]] :=
  ⟨{ seeded [] with inputs := [.reset] }, { running [] with inputs := [.reset] },
    { seeded [] with inputs := [.reset, .command 0x00000002#32 [[]]] }, ⟨rfl, rfl, rfl, rfl, rfl⟩, rfl, rfl, rfl, rfl⟩

theorem witness_OnlyUnreachableStatesFault :
    (∃ s : State, s.NoReset ∧ s.waiting = false ∧ s.seq = 0b11#2) ∧
      (∃ s : State, Config.hardware.blockSize ≤ s.inst.cursor) ∧ ∃ s : State, s.Inv Config.hardware :=
  ⟨⟨{ State.reset with seq := 0b11#2 }, noReset_of_empty rfl, rfl, rfl⟩, ⟨refilling [] [], le_refl _⟩,
    ⟨seeded [], .inl ⟨seeded_idle _, seeded_atRest _⟩⟩⟩

theorem witness_UnansweredCallNeverCompletes :
    (∃ (s : State) (key iv : Bytes), key.length = 32 ∧ iv.length = 8 ∧ s.answerAt Config.hardware 0 = .never) ∧
      (∃ (s : State) (data : Bytes), s.inst.Live ∧ s.inst.Sized Config.hardware ∧
        s.inst.cursor < Config.hardware.blockSize ∧ 0 < s.inst.boundaries Config.hardware data.length ∧ data ≠ [] ∧
        s.AnswersGood Config.hardware 0 ∧ s.answerAt Config.hardware 0 = .never) ∧
      ∃ s : State, s.waiting = true ∧ s.NoReset :=
  ⟨⟨seeded [.never], zeros 32, zeros 8, rfl, rfl, rfl⟩,
    ⟨seeded [.never], blockOfZeros, seeded_live _, seeded_sized _, seeded_cursor _,
      by rw [seeded_block _ _ blockOfZeros_length]; exact Nat.one_pos, blockOfZeros_ne,
      fun j hj => absurd hj (Nat.not_lt_zero j), rfl⟩,
    ⟨{ refilling [] [] with waiting := true }, rfl, noReset_of_empty rfl⟩⟩

/-! ### NEW -/

theorem witness_NewConstructsTheInstance : ∃ (s : State) (key iv : Bytes), s.Idle ∧ key.length = 32 ∧
    iv.length = 8 ∧ s.answerAt Config.hardware 0 = .returns Config.hardware.blockSize :=
  ⟨seeded [good], zeros 32, zeros 8, seeded_idle _, rfl, rfl, rfl⟩

/-- Each clause at the lengths beside the legal ones (N3 to N8), and the legal ones. -/
theorem witness_NewChecksItsOperandsInOrder :
    State.reset.Idle ∧ ([] : Bytes) ≠ tag ∧ 0x53 :: tag.drop 1 ≠ tag ∧ tag.length = 11 ∧
      (zeros 31).length ≠ 32 ∧ (zeros 33).length ≠ 32 ∧ (zeros 32).length = 32 ∧
      (zeros 7).length ≠ 8 ∧ (zeros 9).length ≠ 8 ∧ (zeros 8).length = 8 :=
  ⟨reset_idle, by decide⟩

/-- A reported failure, and strings one byte too long and of no byte. -/
theorem witness_NewPropagatesThePrimitivesFailure : ∃ s₁ s₂ s₃ : State, s₁.Idle ∧ s₂.Idle ∧ s₃.Idle ∧
    s₁.CallFails Config.hardware 0 ∧ s₂.CallFails Config.hardware 0 ∧ s₃.CallFails Config.hardware 0 :=
  ⟨seeded [.fails], seeded [.returns (Config.hardware.blockSize + 1)], seeded [.returns 0], seeded_idle _,
    seeded_idle _, seeded_idle _, .inl rfl, .inr ⟨_, Nat.succ_ne_self _, rfl⟩,
    .inr ⟨0, Nat.ne_of_lt hardware_blockSize_pos, rfl⟩⟩

/-- A NEW with a wrong tag ends. -/
theorem newWrongTag (s : State) : ∃ t, exec (.new .encrypt [] [] []) s = .next t ∧ t.waiting = false ∧
    t.results = s.results ++ [⟨.unsupportedAlgorithm, []⟩] := ⟨_, rfl, rfl, rfl⟩

theorem witness_FailedNewChangesNothing :
    ∃ t, exec (.new .encrypt [] [] []) State.reset = .next t ∧ t.waiting = false :=
  let ⟨t, h, hw, _⟩ := newWrongTag State.reset
  ⟨t, h, hw⟩

theorem witness_RegistersBeforeNewAreUnobservable : ∃ (s t : State) (r : Instance),
    (Instr.update [7]).hostIssuable = true ∧ s.inst.valid = false ∧ r.valid = false ∧ r.failed = s.inst.failed ∧
      r ≠ s.inst ∧ exec (.update [7]) s = .next t :=
  ⟨State.reset, _, { Instance.reset with ctr := 5 }, rfl, rfl, rfl, rfl,
    fun h => absurd (congrArg Instance.ctr h) (show (5 : Counter) ≠ 0 by decide),
    (exec_update [7] State.reset).trans (updateCommand_noInstance [7] rfl)⟩

/-! ### REFILL and COMBINE -/

theorem witness_RefillLoadsTheNextBlock : ∃ s : State, s.inst.ctr = 0xFFFFFFFFFFFFFFFF ∧
    s.answerAt Config.hardware 0 = .returns Config.hardware.blockSize :=
  ⟨{ refilling [] [good] with inst := { seededInst with ctr := 0xFFFFFFFFFFFFFFFF } }, rfl, rfl⟩

theorem witness_RefillFailureRestoresTheRegisters : ∃ (s₁ s₂ : State) (r : Instance),
    s₁.snap = some r ∧ s₁.CallFails Config.hardware 0 ∧ s₂.snap = some r ∧ s₂.CallFails Config.hardware 0 :=
  ⟨refilling [] [.fails], refilling [7] [.returns 0], seededInst, rfl, .inl rfl, rfl,
    .inr ⟨0, Nat.ne_of_lt hardware_blockSize_pos, rfl⟩⟩

/-- Two REFILLs with the same CTR and KEY, on different engines. -/
theorem witness_RefillIsDeterministic : ∃ s₁ s₂ t₁ t₂ : State, s₁.engine ≠ s₂.engine ∧
    s₁.inst.ctr = s₂.inst.ctr ∧ s₁.inst.key = s₂.inst.key ∧
    s₁.answerAt Config.hardware 0 = .returns Config.hardware.blockSize ∧
    s₂.answerAt Config.hardware 0 = .returns Config.hardware.blockSize ∧
    exec .refill s₁ = .next t₁ ∧ exec .refill s₂ = .next t₂ :=
  ⟨refilling [] [good], { refilling [7] [good] with engine := 1 }, _, _, by decide, rfl, rfl, rfl, rfl, rfl, rfl⟩

theorem witness_CombineTakesOneChunk : ∃ (s : State) (n : Nat), s.inst.cursor < Config.hardware.blockSize ∧
    n = min (Config.hardware.blockSize - s.inst.cursor) s.rem.length ∧ 1 ≤ n :=
  ⟨running [], _, hardware_blockSize_pos, rfl, Nat.le_min.mpr ⟨hardware_blockSize_pos, le_refl 1⟩⟩

theorem combine_running : exec .combine (running []) = .next ((running []).combineChunk Config.hardware) :=
  (exec_combine _).trans (if_pos hardware_blockSize_pos)

theorem witness_CombinePairsBytesInOrder : ∃ s t : State, s.inst.Sized Config.hardware ∧ s.rem ≠ [] ∧
    exec .combine s = .next t :=
  ⟨running [], _, seeded_sized [], by decide, combine_running⟩

theorem witness_XorLaws : ([1, 2] : Bytes).length = ([3, 4] : Bytes).length := rfl

theorem witness_LaneWidthHasNoEffect : ([1, 2, 3] : Bytes).length = ([3, 4, 5] : Bytes).length ∧ 1 ≤ 1 ∧ 1 ≤ 4 := by
  decide

/-! ### UPDATE -/

theorem witness_UpdateWithoutInstance : State.reset.Idle ∧ State.reset.inst.valid = false := ⟨reset_idle, rfl⟩

theorem witness_UpdateOnAFailedInstance : ∃ s : State, s.Idle ∧ s.inst.valid = true ∧ s.inst.failed = true :=
  ⟨{ seeded [] with inst := { seededInst with failed := true } }, ⟨rfl, rfl, rfl, rfl, rfl⟩, rfl, rfl⟩

theorem witness_EmptyUpdateChangesNothing : ∃ s : State, s.Idle ∧ s.inst.Live := ⟨seeded [], seeded_idle _, seeded_live _⟩

/-- The first clause where one block is filled (k = 1). -/
theorem witness_UpdateOneStepForm_succeeds : ∃ (s : State) (data : Bytes), s.Idle ∧ s.inst.Live ∧
    s.inst.Sized Config.hardware ∧ s.inst.cursor < Config.hardware.blockSize ∧ data ≠ [] ∧
    1 = s.inst.boundaries Config.hardware data.length ∧ s.AnswersGood Config.hardware 1 :=
  ⟨seeded [good], blockOfZeros, seeded_idle _, seeded_live _, seeded_sized _, seeded_cursor _, blockOfZeros_ne,
    (seeded_block _ _ blockOfZeros_length).symm, good_one _ [] rfl⟩

/-- The first clause inside a block (k = 0); at `B = 1` there is no such UPDATE. -/
theorem witness_UpdateOneStepForm_inside (h : 1 < Config.hardware.blockSize) : ∃ (s : State) (data : Bytes),
    s.Idle ∧ s.inst.Live ∧ s.inst.Sized Config.hardware ∧ s.inst.cursor < Config.hardware.blockSize ∧ data ≠ [] ∧
    0 = s.inst.boundaries Config.hardware data.length ∧ s.AnswersGood Config.hardware 0 :=
  ⟨seeded [], [7], seeded_idle _, seeded_live _, seeded_sized _, seeded_cursor _, by decide,
    (Nat.div_eq_of_lt (a := 0 + 1) h).symm, fun j hj => absurd hj (Nat.not_lt_zero j)⟩

/-- The second clause, at its first call. -/
theorem witness_UpdateOneStepForm_fails : ∃ (s : State) (data : Bytes), s.Idle ∧ s.inst.Live ∧
    s.inst.Sized Config.hardware ∧ s.inst.cursor < Config.hardware.blockSize ∧ data ≠ [] ∧
    0 < s.inst.boundaries Config.hardware data.length ∧ s.AnswersGood Config.hardware 0 ∧
    s.CallFails Config.hardware 0 :=
  ⟨seeded [.fails], blockOfZeros, seeded_idle _, seeded_live _, seeded_sized _, seeded_cursor _, blockOfZeros_ne,
    by rw [seeded_block _ _ blockOfZeros_length]; exact Nat.one_pos, fun j hj => absurd hj (Nat.not_lt_zero j), .inl rfl⟩

theorem witness_UpdateKeepsTheLength : ∃ (s t : State) (data out : Bytes), s.inst.Sized Config.hardware ∧
    exec (.update data) s = .next t ∧ t.results = s.results ++ [⟨.ok, out⟩] :=
  let ⟨t, out, h, hr⟩ := oneByte 7
  ⟨seeded [good], t, [7], out, seeded_sized _, h, hr⟩

theorem witness_ExactFillRefillsOnce : ∃ (s : State) (data : Bytes), s.Idle ∧ s.inst.Live ∧
    s.inst.Sized Config.hardware ∧ s.inst.cursor < Config.hardware.blockSize ∧
    data.length = Config.hardware.blockSize - s.inst.cursor ∧
    s.answerAt Config.hardware 0 = .returns Config.hardware.blockSize :=
  ⟨seeded [good], blockOfZeros, seeded_idle _, seeded_live _, seeded_sized _, seeded_cursor _, blockOfZeros_length, rfl⟩

/-- Three pieces, one of them empty, that fill one block and no more. -/
theorem witness_ChunkInvariance : ∃ (s : State) (pieces : List Bytes), s.Idle ∧ s.inst.Live ∧
    s.inst.Sized Config.hardware ∧ s.inst.cursor < Config.hardware.blockSize ∧ pieces.length = 3 ∧
    s.AnswersGood Config.hardware (s.inst.boundaries Config.hardware pieces.flatten.length) := by
  refine ⟨seeded [good], [blockOfZeros.take 1, [], blockOfZeros.drop 1], seeded_idle _, seeded_live _, seeded_sized _,
    seeded_cursor _, rfl, ?_⟩
  have hl : [blockOfZeros.take 1, [], blockOfZeros.drop 1].flatten = blockOfZeros := by
    simp [List.take_append_drop, -List.drop_one]
  rw [hl, seeded_block _ _ blockOfZeros_length]
  exact good_one _ [] rfl

/-- One piece of `B` bytes: each instance makes two calls. -/
theorem witness_RoundTripReturnsThePlaintext : ∃ (s₁ s₂ : State) (key iv : Bytes) (pieces : List Bytes),
    s₁.Idle ∧ s₂.Idle ∧ key.length = 32 ∧ iv.length = 8 ∧ s₁.engine ≠ s₂.engine ∧
    s₁.AnswersGood Config.hardware (1 + pieces.flatten.length / Config.hardware.blockSize) ∧
    s₂.AnswersGood Config.hardware (1 + pieces.flatten.length / Config.hardware.blockSize) := by
  have hl : 1 + [blockOfZeros].flatten.length / Config.hardware.blockSize = 2 := by
    simp [blockOfZeros, Nat.div_self hardware_blockSize_pos]
  have h2 : ∀ s : State, s.answers = [good, good] → s.AnswersGood Config.hardware 2 := by
    intro s h j hj
    rcases j with _ | _ | j
    · simp [State.answerAt, h, good]
    · simp [State.answerAt, h, good]
    · omega
  refine ⟨seeded [good, good], { seeded [good, good] with engine := 1 }, zeros 32, zeros 8, [blockOfZeros],
    seeded_idle _, ⟨rfl, rfl, rfl, rfl, rfl⟩, rfl, rfl, by decide, ?_⟩
  rw [hl]
  exact ⟨h2 _ rfl, h2 _ rfl⟩

theorem witness_UpdateIsTheSequencersRun : ∃ (s : State) (data : Bytes), s.inst.Live ∧ s.inputs = [] ∧ data ≠ [] :=
  ⟨seeded [.fails], [7, 8], seeded_live _, rfl, by decide⟩

/-- One block filled: `k = 1` and `(p + n) mod B = 0`. -/
theorem witness_SequencerRoundsAreCounted : ∃ (s : State) (data : Bytes), s.inst.Live ∧
    s.inst.Sized Config.hardware ∧ s.inst.cursor < Config.hardware.blockSize ∧ s.inputs = [] ∧ data ≠ [] ∧
    1 = s.inst.boundaries Config.hardware data.length ∧ s.AnswersGood Config.hardware 1 ∧
    (s.inst.cursor + data.length) % Config.hardware.blockSize = 0 :=
  ⟨seeded [good], blockOfZeros, seeded_live _, seeded_sized _, seeded_cursor _, rfl, blockOfZeros_ne,
    (seeded_block _ _ blockOfZeros_length).symm, good_one _ [] rfl, by
      rw [blockOfZeros_length]
      simp [seeded, seededInst]⟩

theorem running_inUpdate (rem : Bytes) (a : List Answer) (h : rem ≠ []) :
    ({ running a with rem := rem } : State).InUpdate Config.hardware :=
  ⟨⟨seededInst, rfl, seeded_atRest a, seeded_live a, rfl⟩, seeded_live a, seeded_sized a, seededInst_fresh,
    .inl ⟨rfl, hardware_blockSize_pos, h⟩⟩

theorem refilling_inUpdate (rem : Bytes) (a : List Answer) : (refilling rem a).InUpdate Config.hardware :=
  ⟨⟨seededInst, rfl, seeded_atRest a, seeded_live a, rfl⟩, ⟨rfl, rfl⟩, ⟨blockOf_length _ _ _, le_refl _⟩, seededInst_fresh,
    .inr ⟨rfl, rfl⟩⟩

/-- A state for each row: a COMBINE that reaches the end of the block, and the three of REFILL. -/
theorem witness_SequencerFollowsItsTable :
    (∃ s : State, s.InUpdate Config.hardware ∧ s.waiting = false ∧ s.NoReset ∧ s.seq = Seq.combine ∧
      Config.hardware.blockSize ≤ s.inst.cursor + s.rem.length) ∧
    (∃ s : State, s.InUpdate Config.hardware ∧ s.waiting = false ∧ s.NoReset ∧ s.seq = Seq.refill ∧
      s.answerAt Config.hardware 0 = .returns Config.hardware.blockSize ∧ s.rem ≠ []) ∧
    (∃ s : State, s.InUpdate Config.hardware ∧ s.waiting = false ∧ s.NoReset ∧ s.seq = Seq.refill ∧
      s.answerAt Config.hardware 0 = .returns Config.hardware.blockSize ∧ s.rem = []) ∧
    ∃ s : State, s.InUpdate Config.hardware ∧ s.waiting = false ∧ s.NoReset ∧ s.seq = Seq.refill ∧
      s.CallFails Config.hardware 0 :=
  ⟨⟨{ running [] with rem := blockOfZeros }, running_inUpdate _ _ blockOfZeros_ne, rfl, noReset_of_empty rfl, rfl,
      by simp [blockOfZeros]⟩,
    ⟨refilling [7] [good], refilling_inUpdate _ _, rfl, noReset_of_empty rfl, rfl, rfl, by decide⟩,
    ⟨refilling [] [good], refilling_inUpdate _ _, rfl, noReset_of_empty rfl, rfl, rfl, rfl⟩,
    ⟨refilling [] [.fails], refilling_inUpdate _ _, rfl, noReset_of_empty rfl, rfl, .inl rfl⟩⟩

/-- The second row, a COMBINE inside the block; at `B = 1` there is none. -/
theorem witness_SequencerFollowsItsTable_inside (h : 1 < Config.hardware.blockSize) :
    ∃ s : State, s.InUpdate Config.hardware ∧ s.waiting = false ∧ s.NoReset ∧ s.seq = Seq.combine ∧
      s.inst.cursor + s.rem.length < Config.hardware.blockSize :=
  ⟨running [], running_inUpdate [0] [] (by decide), rfl, noReset_of_empty rfl, rfl, h⟩

/-! ### The whole machine -/

/-- A step from each of the invariant's three kinds of state. -/
theorem witness_StepKeepsTheInvariant :
    (∃ s t : State, s.Idle ∧ s.Inv Config.hardware ∧ step s = .next t) ∧
    (∃ s t : State, s.seq = Seq.refill ∧ s.Inv Config.hardware ∧ step s = .next t) ∧
    ∃ s t : State, s.waiting = true ∧ s.Inv Config.hardware ∧ step s = .next t := by
  refine ⟨⟨seeded [], seeded [], seeded_idle _, .inl ⟨seeded_idle _, seeded_atRest _⟩, step_noInput rfl rfl⟩,
    ⟨refilling [] [good], _, rfl, .inr (.inl ⟨rfl, refilling_inUpdate _ _⟩),
      (step_microStep (noReset_of_empty rfl) rfl Seq.refill_ne_idle).trans (microStep_refill rfl)⟩,
    ⟨{ refilling [] [] with waiting := true }, _, rfl, .inr (.inr ⟨rfl, rfl, ⟨seededInst, rfl, seeded_atRest []⟩,
      ⟨blockOf_length _ _ _, le_refl _⟩⟩), step_waiting (noReset_of_empty rfl) rfl⟩⟩

/-- A NEW with legal operands whose call is answered: it succeeds and leaves CURSOR = 0. -/
theorem newLegal : ∃ e, exec (.new .encrypt tag (zeros 32) (zeros 8)) (seeded [good]) = .next e ∧
    e.results = (seeded [good]).results ++ [⟨.ok, []⟩] ∧ e.inst.cursor = 0 := by
  refine ⟨_, exec_new .., ?_⟩
  rcases newCommand_cases Config.hardware tag (zeros 32) (zeros 8) (seeded [good]) with
    ⟨status, _, h, _⟩ | ⟨k, seed, _, h | ⟨h, _⟩ | ⟨h, _⟩⟩
  · rw [show newOperands tag (zeros 32) (zeros 8) = .ok (⟨zeros 32, rfl⟩, fromLe64 (zeros 8)) from rfl] at h
    cases h
  · rw [h.2]
    exact ⟨rfl, rfl⟩
  · exact absurd rfl h.ne_returns
  · cases h

/-- A successful NEW and a successful UPDATE. -/
theorem witness_RegistersFollowTheConsumedCount_new : ∃ t, exec (.new .encrypt tag (zeros 32) (zeros 8))
    (seeded [good]) = .next t ∧ t.results = (seeded [good]).results ++ [⟨.ok, []⟩] :=
  let ⟨t, h, hr, _⟩ := newLegal
  ⟨t, h, hr⟩

theorem witness_RegistersFollowTheConsumedCount_update : ∃ (s t : State) (data out : Bytes),
    s.inst.Tracks Config.hardware 0 0 ∧ exec (.update data) s = .next t ∧
      t.results = s.results ++ [⟨.ok, out⟩] :=
  let ⟨t, out, h, hr⟩ := oneByte 7
  ⟨seeded [good], t, [7], out, seeded_tracks _, h, hr⟩

theorem witness_RegistersFollowTheConsumedCount_error : ∃ (s t : State) (i : Instr) (status : Status),
    s.inst.Tracks Config.hardware 0 0 ∧ i.hostIssuable = true ∧ exec i s = .next t ∧ status ≠ .ok ∧
      t.results = s.results ++ [⟨status, []⟩] :=
  let ⟨t, h, _, hr⟩ := newWrongTag (seeded [])
  ⟨seeded [], t, _, _, seeded_tracks _, rfl, h, by decide, hr⟩

/-- A step of a presented illegal command, as all three statements about a presented command assume it. -/
theorem illegalStep : ∃ s t : State, s.Idle ∧ s.inputs = [.command 0x00000012#32 [[7]]] ∧ step s = .next t ∧
    t.results = s.results ++ [⟨.illegalCommand, []⟩] :=
  ⟨{ seeded [] with inputs := [.command 0x00000012#32 [[7]]] }, _, ⟨rfl, rfl, rfl, rfl, rfl⟩, rfl, rfl, rfl⟩

theorem witness_OneResultPerCommand : ∃ (s t : State) (w : CommandWord) (o : List Bytes), s.Idle ∧
    s.inputs = .command w o :: [] ∧ step s = .next t :=
  let ⟨s, t, hi, hin, h, _⟩ := illegalStep
  ⟨s, t, _, _, hi, hin, h⟩

theorem witness_CommandsAreAtomic : ∃ (s t : State) (w : CommandWord) (o : List Bytes) (r : Result), s.Idle ∧
    s.inputs = .command w o :: [] ∧ step s = .next t ∧ t.results = s.results ++ [r] ∧ r.status ≠ .ok :=
  let ⟨s, t, hi, hin, h, hr⟩ := illegalStep
  ⟨s, t, _, _, _, hi, hin, h, hr, by decide⟩

theorem witness_ErrorsDeliverNoBytes : ∃ (s t : State) (r : Result), step s = .next t ∧
    r ∈ t.results.drop s.results.length ∧ r.status ≠ .ok :=
  let ⟨s, t, _, _, h, hr⟩ := illegalStep
  ⟨s, t, ⟨.illegalCommand, []⟩, h, by rw [hr]; simp, by decide⟩

theorem witness_WhoWritesKeyAndFlags :
    (∃ t, exec (.update [7]) (seeded [good]) = .next t) ∧ (∃ t, exec .combine (running []) = .next t) ∧
      (∃ t, (refilling [7] [good]).InUpdate Config.hardware ∧ exec .refill (refilling [7] [good]) = .next t) ∧
      (∃ t, (refilling [7] [.fails]).InUpdate Config.hardware ∧ exec .refill (refilling [7] [.fails]) = .next t) ∧
      ∃ t, exec (.new .encrypt tag (zeros 32) (zeros 8)) (seeded [good]) = .next t :=
  ⟨let ⟨t, _, h, _⟩ := oneByte 7; ⟨t, h⟩, ⟨_, combine_running⟩, ⟨_, refilling_inUpdate _ _, rfl⟩,
    ⟨_, refilling_inUpdate _ _, rfl⟩, ⟨_, rfl⟩⟩

theorem witness_InterfacesOnlyGrow :
    (∃ t, exec (.new .encrypt tag (zeros 32) (zeros 8)) (seeded [good]) = .next t) ∧
      (∃ t, exec (.update [7]) (seeded [good]) = .next t) ∧ (∃ t, exec .combine (running []) = .next t) ∧
      ∃ t, exec .refill (refilling [] [good]) = .next t :=
  ⟨⟨_, rfl⟩, let ⟨t, _, h, _⟩ := oneByte 7; ⟨t, h⟩, ⟨_, combine_running⟩, ⟨_, rfl⟩⟩

theorem witness_CallsUseDistinctCounters : ∃ (s t : State) (data : Bytes) (calls : List Request),
    exec (.update data) s = .next t ∧ calls = t.requests.drop s.requests.length :=
  let ⟨t, _, h, _⟩ := oneByte 7
  ⟨seeded [good], t, [7], _, h, rfl⟩

/-- As many good answers as are needed. -/
theorem goods (n : Nat) : (seeded (List.replicate n good)).AnswersGood Config.hardware n := by
  intro j hj
  simp [State.answerAt, seeded, good, hj]

/-- The premises that both clauses share, for any two lengths and any two IVs. -/
theorem witness_KeystreamRepeats (iv₁ iv₂ : Bytes) (h₁ : iv₁.length = 8) (h₂ : iv₂.length = 8) (n₁ n₂ : Nat) :
    ∃ (s₁ s₂ : State) (key : Bytes) (pieces₁ pieces₂ : List Bytes), s₁.Idle ∧ s₂.Idle ∧ key.length = 32 ∧
      iv₁.length = 8 ∧ iv₂.length = 8 ∧ n₁ = pieces₁.flatten.length ∧ n₂ = pieces₂.flatten.length ∧
      s₁.AnswersGood Config.hardware (1 + n₁ / Config.hardware.blockSize) ∧
      s₂.AnswersGood Config.hardware (1 + n₂ / Config.hardware.blockSize) :=
  ⟨seeded _, seeded _, zeros 32, [zeros n₁], [zeros n₂], seeded_idle _, seeded_idle _, by simp [zeros], h₁, h₂,
    by simp [zeros], by simp [zeros], goods _, goods _⟩

/-- The premise of each clause on the lengths and the IVs: 2^64 blocks against none with one IV, one block against none
with seeds 2^64 - 1 and 0, where the seed wraps. -/
theorem witness_KeystreamRepeats_clauses :
    (∃ n₁ n₂, n₂ = n₁ + 2 ^ 64 * Config.hardware.blockSize) ∧ (∃ n₁ n₂, n₁ = n₂ + Config.hardware.blockSize) ∧
      fromLe64 (zeros 8) = fromLe64 (List.replicate 8 0xFF) + 1 :=
  ⟨⟨0, _, rfl⟩, ⟨_, 0, rfl⟩, by decide⟩

theorem witness_UpdateOutputsDifferAsTheirData : ∃ (s t₁ t₂ : State) (d₁ d₂ out₁ out₂ : Bytes),
    s.inst.Sized Config.hardware ∧ d₁.length = d₂.length ∧ d₁ ≠ d₂ ∧ exec (.update d₁) s = .next t₁ ∧
    exec (.update d₂) s = .next t₂ ∧ t₁.results = s.results ++ [⟨.ok, out₁⟩] ∧
    t₂.results = s.results ++ [⟨.ok, out₂⟩] :=
  let ⟨t₁, o₁, h₁, r₁⟩ := oneByte 7
  let ⟨t₂, o₂, h₂, r₂⟩ := oneByte 8
  ⟨seeded [good], t₁, t₂, [7], [8], o₁, o₂, seeded_sized _, rfl, by decide, h₁, h₂, r₁, r₂⟩

/-- A successful NEW, and an UPDATE of one byte and an empty one after it. -/
theorem witness_InstanceCallsUseDistinctCounters : ∃ e t,
    exec (.new .encrypt tag (zeros 32) (zeros 8)) (seeded [good]) = .next e ∧
      e.results = (seeded [good]).results ++ [⟨.ok, []⟩] ∧ feed [[7], []] e = .next t := by
  obtain ⟨e, h, hr, hc⟩ := newLegal
  have hu : ∀ (s : State) (data : Bytes), data = [] ∨ s.inst.cursor = 0 → ∃ t, exec (.update data) s = .next t := by
    intro s data hd
    rw [exec_update]
    rcases updateCommand_cases Config.hardware data s with
      ⟨_, h⟩ | ⟨_, _, h⟩ | ⟨_, _, h⟩ | ⟨_, hn, hb, _⟩ | ⟨_, _, _, t, h, _⟩
    · exact ⟨_, h⟩
    · exact ⟨_, h⟩
    · exact ⟨_, h⟩
    · rw [hd.resolve_left hn] at hb
      exact absurd hardware_blockSize_pos (Nat.not_lt.mpr hb)
    · exact ⟨t, h⟩
  obtain ⟨t, ht⟩ := hu e [7] (.inr hc)
  obtain ⟨u, hu⟩ := hu t [] (.inl rfl)
  exact ⟨e, u, h, hr, by simp only [feed, ht, hu]⟩

theorem witness_CursorFitsItsWidth : ∃ (r : Instance) (w : Nat), r.Sized Config.hardware ∧
    r.cursor = Config.hardware.blockSize ∧ Config.hardware.blockSize < 2 ^ w :=
  ⟨(refilling [] []).inst, Config.hardware.blockSize, ⟨blockOf_length _ _ _, le_refl _⟩, rfl, Nat.lt_two_pow_self⟩

end Sys2Proof.Tests
end

section
/-! PROOFS. The byte formulas of the little-endian conversions (00_scope R14). -/

namespace Sys2Proof.Machine

/-- R14's sum is the model's recursion on the bytes: each step moves the later bytes up by one byte. -/
theorem leNat_eq_sum : ∀ b : Bytes,
    leNat b = ((List.range b.length).map fun i => (b.getD i 0).toNat * 2 ^ (8 * i)).sum
  | [] => rfl
  | b :: bs => by
    have shift (m i : Nat) : m * 2 ^ (8 * (i + 1)) = 256 * (m * 2 ^ (8 * i)) := by ring
    rw [leNat, leNat_eq_sum bs, ← List.sum_map_mul_left, List.length_cons, List.range_succ_eq_map]
    simp [Function.comp_def, shift]

theorem getElem_leBytes_toNat {n x i : Nat} (h : i < (leBytes n x).length) :
    (leBytes n x)[i].toNat = (x >>> (8 * i)) % 256 := by
  simp [leBytes]

theorem fromLe64_toNat_eq_sum {b : Bytes} (h : b.length = 8) :
    (fromLe64 b).toNat = ((List.range 8).map fun i => (b.getD i 0).toNat * 2 ^ (8 * i)).sum := by
  rw [fromLe64_toNat h, leNat_eq_sum, h]

/-- Settles O5: each byte of `le64` is read off its definition, the sum is `leNat_eq_sum`, and both inverses are the laws
of the conversions. -/
theorem littleEndianConversionsAreInverse : Obligations.LittleEndianConversionsAreInverse :=
  ⟨fun x => ⟨le64_length x, fun _ h => getElem_leBytes_toNat h, fromLe64_le64 x⟩,
    fun _ h => ⟨fromLe64_toNat_eq_sum h, le64_fromLe64 h⟩⟩

end Sys2Proof.Machine
end

section
/-! PROOFS. The architectural registers under the operations' writes: CURSOR's width, the invariant's parts, and the
count of consumed bytes (10_state R23, R26, R37). -/

namespace Sys2Proof.Machine

/-! ## CURSOR's width -/

/-- `w` bits hold `B` exactly when they are `CW` at least. -/
theorem Config.cursorWidth_le_iff {c : Config} (hB : 0 < c.blockSize) {w : Nat} :
    c.cursorWidth ≤ w ↔ c.blockSize < 2 ^ w := by
  rw [Config.cursorWidth, Nat.succ_le_iff, Nat.log2_lt hB.ne']

/-- Settles O49: the width is least by `Config.cursorWidth_le_iff`, which also bounds `B` and so CURSOR. -/
theorem cursorFitsItsWidth : Obligations.CursorFitsItsWidth :=
  ⟨fun _ h => h.cursor.trans_lt ((Config.cursorWidth_le_iff hardware_blockSize_pos).mp le_rfl),
    fun _ => (Config.cursorWidth_le_iff hardware_blockSize_pos).mpr⟩

/-! ## The block of CTR - 1 -/

theorem counter_add_sub_one (ctr : Counter) {k : Nat} (hk : k ≠ 0) :
    ctr + BitVec.ofNat 64 k - 1 = ctr + BitVec.ofNat 64 (k - 1) := by
  obtain ⟨j, rfl⟩ := Nat.exists_eq_succ_of_ne_zero hk
  rw [Nat.succ_eq_add_one, ← counter_succ_add, Nat.add_sub_cancel, add_right_comm, add_sub_cancel_right]

/-- A loaded block is the block of the counter before it was counted up. -/
theorem Instance.fresh_loadBlock {c : Config} {r : Instance} {ctr : Counter} {key : Key} (hc : r.ctr = ctr)
    (hk : r.key = key) : (r.loadBlock (blockOf c ctr key)).Fresh c := by
  simp [Instance.Fresh, hc, hk]

/-! ## The registers after a number of bytes -/

@[simp] theorem Instance.afterBytes_valid (c : Config) (r : Instance) (n : Nat) :
    (r.afterBytes c n).valid = r.valid := rfl
@[simp] theorem Instance.afterBytes_failed (c : Config) (r : Instance) (n : Nat) :
    (r.afterBytes c n).failed = r.failed := rfl
@[simp] theorem Instance.afterBytes_key (c : Config) (r : Instance) (n : Nat) :
    (r.afterBytes c n).key = r.key := rfl
@[simp] theorem Instance.afterBytes_ctr (c : Config) (r : Instance) (n : Nat) :
    (r.afterBytes c n).ctr = r.ctr + BitVec.ofNat 64 (r.boundaries c n) := rfl
@[simp] theorem Instance.afterBytes_cursor (c : Config) (r : Instance) (n : Nat) :
    (r.afterBytes c n).cursor = (r.cursor + n) % c.blockSize := rfl
theorem Instance.afterBytes_ksbuf (c : Config) (r : Instance) (n : Nat) :
    (r.afterBytes c n).ksbuf = if r.boundaries c n = 0 then r.ksbuf
      else blockOf c (r.ctr + BitVec.ofNat 64 (r.boundaries c n - 1)) r.key := rfl

/-- Either no block boundary is reached and the buffer stays, or the block of the last call is in the buffer. -/
theorem Instance.Fresh.afterBytes {c : Config} {r : Instance} (h : r.Fresh c) (n : Nat) :
    (r.afterBytes c n).Fresh c := by
  unfold Instance.Fresh at h ⊢
  rw [Instance.afterBytes_ksbuf, Instance.afterBytes_ctr, Instance.afterBytes_key]
  split
  · next hk => simpa [hk] using h
  · next hk => rw [counter_add_sub_one _ hk]

theorem Instance.Sized.afterBytes {c : Config} {r : Instance} (h : r.Sized c) (hB : 0 < c.blockSize) (n : Nat) :
    (r.afterBytes c n).Sized c where
  ksbuf := by
    rw [Instance.afterBytes_ksbuf]
    split
    · exact h.ksbuf
    · exact blockOf_length ..
  cursor := (Nat.mod_lt _ hB).le

/-- A run that waits for a call has the registers' sizes. -/
theorem Instance.Sized.atCall {c : Config} {r : Instance} (h : r.Sized c) (m : Nat) : (r.atCall c m).Sized c where
  ksbuf := by
    unfold Instance.atCall
    split
    · exact h.ksbuf
    · exact blockOf_length ..
  cursor := le_rfl

/-! ## Registers at rest -/

theorem Instance.reset_atRest : Instance.reset.AtRest Config.hardware :=
  ⟨Instance.reset_sized, fun h => absurd h Bool.false_ne_true, fun h => absurd h Bool.false_ne_true,
    fun h => absurd h Bool.false_ne_true⟩

/-- Live registers are at rest when they have their sizes, a fresh block and CURSOR inside the block. -/
theorem Instance.Live.atRest {c : Config} {r : Instance} (hL : r.Live) (hz : r.Sized c)
    (hc : r.cursor < c.blockSize) (hf : r.Fresh c) : r.AtRest c :=
  ⟨hz, fun _ => hc, fun _ => hf, fun _ => hL.valid⟩

theorem Instance.AtRest.markFailed {c : Config} {r : Instance} (h : r.AtRest c) (hv : r.valid = true) :
    r.markFailed.AtRest c :=
  ⟨⟨h.sized.ksbuf, h.sized.cursor⟩, h.cursor, h.fresh, fun _ => hv⟩

/-- Live registers at rest are at rest again after any number of bytes. -/
theorem Instance.AtRest.afterBytes {c : Config} {r : Instance} (h : r.AtRest c) (hL : r.Live)
    (hB : 0 < c.blockSize) (n : Nat) : (r.afterBytes c n).AtRest c :=
  Instance.Live.atRest ⟨hL.valid, hL.failed⟩ (h.sized.afterBytes hB n) (Nat.mod_lt _ hB)
    ((h.fresh hL.valid).afterBytes n)

/-- The registers that a successful NEW leaves (40_construction R100). -/
def Instance.built (c : Config) (key : Key) (seed : Counter) (r : Instance) : Instance :=
  (({ r with key := key, ctr := seed } : Instance).loadBlock (blockOf c seed key)).markConstructed

theorem Instance.built_fresh (c : Config) (key : Key) (seed : Counter) (r : Instance) :
    (r.built c key seed).Fresh c := Instance.fresh_loadBlock rfl rfl

theorem Instance.built_atRest {c : Config} (hB : 0 < c.blockSize) (key : Key) (seed : Counter) (r : Instance) :
    (r.built c key seed).AtRest c :=
  Instance.Live.atRest ⟨rfl, rfl⟩ ⟨blockOf_length .., Nat.zero_le _⟩ hB (r.built_fresh c key seed)

/-! ## The count of consumed bytes -/

/-- That the buffer holds the block of the count is that it holds the block of CTR - 1. -/
theorem Instance.tracks_iff {c : Config} {seed : Counter} {n : Nat} {r : Instance} :
    r.Tracks c seed n ↔ r.valid = true ∧ r.cursor = n % c.blockSize ∧
      r.ctr = seed + 1 + BitVec.ofNat 64 (n / c.blockSize) ∧ r.Fresh c := by
  have hctr : seed + 1 + BitVec.ofNat 64 (n / c.blockSize) - 1 = seed + BitVec.ofNat 64 (n / c.blockSize) := by
    rw [add_right_comm, add_sub_cancel_right]
  constructor
  · rintro ⟨hv, hcur, hc, hk⟩
    exact ⟨hv, hcur, hc, by rw [Instance.Fresh, hc, hctr, hk]⟩
  · rintro ⟨hv, hcur, hc, hk⟩
    exact ⟨hv, hcur, hc, by rw [hk, hc, hctr]⟩

theorem Instance.built_tracks (c : Config) (key : Key) (seed : Counter) (r : Instance) :
    (r.built c key seed).Tracks c seed 0 :=
  Instance.tracks_iff.mpr ⟨rfl, (Nat.zero_mod _).symm, by simp [Instance.built], r.built_fresh c key seed⟩

/-- FAILED is no part of what R37 says. -/
theorem Instance.Tracks.markFailed {c : Config} {seed : Counter} {n : Nat} {r : Instance} (h : r.Tracks c seed n) :
    r.markFailed.Tracks c seed n := ⟨h.valid, h.cursor, h.ctr, h.ksbuf⟩

/-- The blocks up to `n + m` bytes are those up to `n` and the boundaries that `m` bytes reach from there. -/
theorem Instance.Tracks.boundaries {c : Config} {seed : Counter} {n : Nat} {r : Instance} (h : r.Tracks c seed n)
    (hB : 0 < c.blockSize) (m : Nat) : n / c.blockSize + r.boundaries c m = (n + m) / c.blockSize := by
  have hsum : n + m = n % c.blockSize + m + c.blockSize * (n / c.blockSize) := by
    have := Nat.mod_add_div n c.blockSize
    omega
  rw [Instance.boundaries, h.cursor, hsum, Nat.add_mul_div_left _ _ hB, Nat.add_comm]

/-- The count goes up by the bytes consumed. -/
theorem Instance.Tracks.afterBytes {c : Config} {seed : Counter} {n : Nat} {r : Instance} (h : r.Tracks c seed n)
    (hB : 0 < c.blockSize) (m : Nat) : (r.afterBytes c m).Tracks c seed (n + m) := by
  obtain ⟨hv, hcur, hc, hf⟩ := Instance.tracks_iff.mp h
  refine Instance.tracks_iff.mpr ⟨hv, ?_, ?_, hf.afterBytes m⟩
  · rw [Instance.afterBytes_cursor, hcur, Nat.mod_add_mod]
  · rw [Instance.afterBytes_ctr, hc, add_assoc, ← BitVec.ofNat_add, h.boundaries hB]

end Sys2Proof.Machine
end

section
/-! PROOFS. Every way a NEW or an UPDATE can end, by the registers, the working state and the result it leaves, and every
way a step can be taken. -/

namespace Sys2Proof.Machine

/-- What passes NEW's checks is the key operand and the IV's number. -/
theorem eq_of_newOperands_ok {tag key iv : Bytes} {k : Key} {seed : Counter}
    (h : newOperands tag key iv = .ok (k, seed)) : k.bytes = key ∧ seed = fromLe64 iv := by
  rcases newOperands_cases tag key iv with ⟨_, e⟩ | ⟨_, _, e⟩ | ⟨_, _, _, e⟩ | ⟨_, _, _, e⟩ <;> rw [e] at h <;> cases h
  exact ⟨rfl, rfl⟩

/-- How a NEW at `s` ends in `t`. -/
inductive NewOutcome (c : Config) (key iv : Bytes) (s t : State) : Prop where
  /-- An error, of the operands or of the call: no register changes (40_construction R108). -/
  | error (status : Status) (notOk : status ≠ .ok) (idle : t.Idle) (inst : t.inst = s.inst)
      (results : t.results = s.results ++ [⟨status, []⟩])
  /-- The answered call completes it (R100). -/
  | built (k : Key) (bytes : k.bytes = key) (idle : t.Idle) (inst : t.inst = s.inst.built c k (fromLe64 iv))
      (results : t.results = s.results ++ [⟨.ok, []⟩])
  /-- The call is not answered (70_reset_and_hazards R236). -/
  | waits (k : Key) (waiting : t.waiting = true) (seq : t.seq = Seq.refill) (snap : t.snap = some s.inst)
      (inst : t.inst = { s.inst with key := k, ctr := fromLe64 iv }) (results : t.results = s.results)

theorem newCommand_outcome (c : Config) (tag key iv : Bytes) (s : State) :
    NewOutcome c key iv s (newCommand c tag key iv s) := by
  rcases newCommand_cases c tag key iv s with
    ⟨status, hst, _, h⟩ | ⟨k, seed, hok, ⟨_, h⟩ | ⟨_, h⟩ | ⟨ha, h⟩⟩ <;> rw [h]
  · exact .error status hst (State.raise_idle ..) rfl rfl
  · obtain ⟨hk, rfl⟩ := eq_of_newOperands_ok hok
    exact .built k hk (State.deliver_idle ..) rfl rfl
  · exact .error _ (by decide) (State.raise_idle ..) rfl rfl
  · obtain ⟨hk, rfl⟩ := eq_of_newOperands_ok hok
    have ha' : (s.accept.loadSeed k (fromLe64 iv)).answerAt c 0 = .never :=
      (State.answerAt_congr rfl rfl rfl 0).trans ha
    exact .waits k (by simp [ha']) rfl rfl rfl rfl

/-- How an UPDATE at `s` ends in `t`. -/
inductive UpdateOutcome (c : Config) (data : Bytes) (s t : State) : Prop where
  /-- The checks find an error (42_update R141, R142). -/
  | refused (status : Status) (notOk : status ≠ .ok) (idle : t.Idle) (inst : t.inst = s.inst)
      (results : t.results = s.results ++ [⟨status, []⟩])
  /-- Empty data (R143). -/
  | empty (noData : data = []) (idle : t.Idle) (inst : t.inst = s.inst)
      (results : t.results = s.results ++ [⟨.ok, []⟩])
  /-- All the data are combined (R149). -/
  | done (out : Bytes) (live : s.inst.Live) (cursor : s.inst.cursor < c.blockSize) (idle : t.Idle)
      (inst : t.inst = s.inst.afterBytes c data.length) (results : t.results = s.results ++ [⟨.ok, out⟩])
  /-- A call fails (R146). -/
  | failed (live : s.inst.Live) (idle : t.Idle) (inst : t.inst = s.inst.markFailed)
      (results : t.results = s.results ++ [⟨.keystreamGenerationFailure, []⟩])
  /-- Call number `m` is not answered (70_reset_and_hazards R236). -/
  | waits (m : Nat) (live : s.inst.Live) (waiting : t.waiting = true) (seq : t.seq = Seq.refill)
      (snap : t.snap = some s.inst) (inst : t.inst = s.inst.atCall c m) (results : t.results = s.results)

theorem updateCommand_outcome {c : Config} {data : Bytes} {s t : State} (h : updateCommand c data s = .next t) :
    UpdateOutcome c data s t := by
  rcases updateCommand_cases c data s with
    ⟨_, e⟩ | ⟨_, _, e⟩ | ⟨_, hd, e⟩ | ⟨_, _, _, e⟩ | ⟨hL, _, hc, u, e, hends⟩ <;> rw [e] at h <;> cases h
  · exact .refused .noInstance (by decide) (State.raise_idle ..) rfl rfl
  · exact .refused .keystreamGenerationFailure (by decide) (State.raise_idle ..) rfl rfl
  · exact .empty hd (State.deliver_idle ..) rfl rfl
  · rcases hends.ends with
      ⟨_, hi, _, hinst, out, hres, _⟩ | ⟨m, _, _, _, ⟨_, hi, hinst, hres⟩ | ⟨_, hw, hs, hsn, hinst, hres⟩⟩
    · exact .done _ hL hc hi hinst hres
    · exact .failed hL hi hinst hres
    · exact .waits m hL hw hs hsn hinst hres

/-- A command word decodes to a command, never to a micro-operation (30_encoding R76). -/
theorem decodeCommand_hostIssuable {w : CommandWord} {operands : List Bytes} {i : Instr}
    (h : decodeCommand w operands = .ok i) : i.hostIssuable = true := by
  unfold decodeCommand at h
  split at h
  · obtain ⟨_, _, _, _, rfl⟩ := decodeNew_eq_ok.mp h
    rfl
  · split at h
    · obtain ⟨_, _, rfl⟩ := decodeUpdate_eq_ok.mp h
      rfl
    · cases h

/-- How a step leads from `s` to `t`. -/
inductive StepTaken (s t : State) : Prop where
  | reset (rest : List Input) (inputs : s.inputs = .reset :: rest) (eq : t = s.afterReset rest)
  /-- The engine waits, for a command or for the primitive. -/
  | stays (eq : t = s)
  | executed (w : CommandWord) (operands : List Bytes) (rest : List Input) (i : Instr)
      (inputs : s.inputs = .command w operands :: rest) (seq : s.seq = Seq.idle)
      (decoded : decodeCommand w operands = .ok i) (answer : exec i { s with inputs := rest } = .next t)
  | rejected (w : CommandWord) (operands : List Bytes) (rest : List Input)
      (inputs : s.inputs = .command w operands :: rest) (seq : s.seq = Seq.idle)
      (eq : t = State.rejectCommand { s with inputs := rest })
  | microOp (waiting : s.waiting = false) (seq : s.seq ≠ Seq.idle) (round : microStep Config.hardware s = .next t)

theorem step_taken {s t : State} (h : step s = .next t) : StepTaken s t := by
  by_cases hr : s.NoReset
  · cases hw : s.waiting with
    | true =>
      rw [step_waiting hr hw] at h
      exact .stays (by cases h; rfl)
    | false =>
      by_cases hs : s.seq = Seq.idle
      · match hi : s.inputs with
        | [] =>
          rw [step_noInput hi hs] at h
          exact .stays (by cases h; rfl)
        | .reset :: rest => exact absurd hi (hr rest)
        | .command w operands :: rest =>
          rw [step_command hi hw hs] at h
          cases hd : decodeCommand w operands with
          | ok i => exact .executed w operands rest i hi hs hd (by simpa only [hd] using h)
          | error e =>
            simp only [hd] at h
            exact .rejected w operands rest hi hs (by cases h; rfl)
      · exact .microOp hw hs (by rwa [step_microStep hr hw hs] at h)
  · obtain ⟨rest, hi⟩ : ∃ rest, s.inputs = .reset :: rest := by simpa [State.NoReset] using hr
    rw [step_reset hi] at h
    exact .reset rest hi (by cases h; rfl)

end Sys2Proof.Machine
end

section
/-! PROOFS. Every step keeps the invariant (10_state R23, R26, R31 to R33, R39). -/

namespace Sys2Proof.Machine

/-! ## Commands -/

theorem State.Idle.inv {c : Config} {s : State} (hi : s.Idle) (h : s.inst.AtRest c) : s.Inv c := .inl ⟨hi, h⟩

/-- A NEW on registers at rest ends at rest, or waits with them in SNAP. -/
theorem newCommand_inv {c : Config} (hB : 0 < c.blockSize) {s : State} (h : s.inst.AtRest c) (tag key iv : Bytes) :
    (newCommand c tag key iv s).Inv c := by
  cases newCommand_outcome c tag key iv s with
  | error status notOk idle inst results => exact idle.inv (inst ▸ h)
  | built k bytes idle inst results => exact idle.inv (inst ▸ Instance.built_atRest hB k _ _)
  | waits k waiting seq snap inst results =>
    exact .inr (.inr ⟨waiting, seq, ⟨_, snap, h⟩, inst ▸ ⟨h.sized.ksbuf, h.sized.cursor⟩⟩)

/-- An UPDATE on registers at rest ends at rest, or waits with them in SNAP. -/
theorem updateCommand_inv {c : Config} {data : Bytes} {s t : State} (h : s.inst.AtRest c)
    (ht : updateCommand c data s = .next t) : t.Inv c := by
  cases updateCommand_outcome ht with
  | refused status notOk idle inst results => exact idle.inv (inst ▸ h)
  | empty noData idle inst results => exact idle.inv (inst ▸ h)
  | done out live cursor idle inst results =>
    exact idle.inv (inst ▸ h.afterBytes live (Nat.zero_lt_of_lt cursor) data.length)
  | failed live idle inst results => exact idle.inv (inst ▸ h.markFailed live.valid)
  | waits m live waiting seq snap inst results =>
    exact .inr (.inr ⟨waiting, seq, ⟨_, snap, h⟩, inst ▸ h.sized.atCall m⟩)

theorem exec_inv {i : Instr} {s t : State} (hi : i.hostIssuable = true) (h : s.inst.AtRest Config.hardware)
    (ht : exec i s = .next t) : t.Inv Config.hardware := by
  cases i with
  | new dir tag key iv =>
    rw [exec_new] at ht
    cases ht
    exact newCommand_inv hardware_blockSize_pos h tag key iv
  | update data => exact updateCommand_inv h ht
  | combine => cases hi
  | refill => cases hi

/-! ## The rounds of the sequencer -/

theorem State.InUpdate.combining {c : Config} {s : State} (h : s.InUpdate c) (hw : s.waiting = false)
    (hs : s.seq = Seq.combine) : s.Combining c := by
  rcases h.next with ⟨_, hc, hr⟩ | ⟨hs', _⟩
  · exact ⟨hs, hw, hc, hr⟩
  · exact absurd (hs'.symm.trans hs) Seq.refill_ne_combine

/-- A COMBINE leads to the REFILL of the next block, or to the end with CURSOR inside the block. -/
theorem microStep_combine_inv {c : Config} {s t : State} (h : s.InUpdate c) (hC : s.Combining c)
    (ht : microStep c s = .next t) : t.Inv c := by
  have hz : (s.combineChunk c).inst.Sized c := State.sized_combineChunk h.sized
  have hf : (s.combineChunk c).inst.Fresh c := h.fresh
  have hL : (s.combineChunk c).inst.Live := ⟨h.live.valid, h.live.failed⟩
  have hc := hC.cursor
  rcases Nat.lt_or_ge (s.inst.cursor + s.rem.length) c.blockSize with hb | hb
  · rw [microStep_combine_end hC hb] at ht
    cases ht
    refine (State.finish_idle _).inv (hL.atRest hz ?_ hf)
    simpa [State.chunkLength_all hb.le] using hb
  · rw [microStep_combine_full hC hb] at ht
    cases ht
    refine .inr (.inl ⟨hC.waiting, h.snap, hL, hz, hf, .inr ⟨rfl, ?_⟩⟩)
    simp only [State.atBlockEnd, State.combineChunk_inst, State.chunkLength_full hb]
    omega

/-- A REFILL leads to a COMBINE or the end with a fresh block, to the error, or to waiting. -/
theorem microStep_refill_inv {c : Config} (hB : 0 < c.blockSize) {s t : State} (h : s.InUpdate c)
    (hs : s.seq = Seq.refill) (ht : microStep c s = .next t) : t.Inv c := by
  obtain ⟨r, hsnap, hrest, hlive, hkey⟩ := h.snap
  rw [microStep_refill hs] at ht
  cases ht
  rcases s.refill_cases c true with ⟨ha, _⟩ | ⟨_, e⟩ | ⟨ha, e⟩
  · have hL : (s.inst.loadBlock (blockOf c s.inst.ctr s.inst.key)).Live := ⟨h.live.valid, h.live.failed⟩
    have hz := Instance.sized_loadBlock c s.inst s.inst.ctr s.inst.key
    have hf : (s.inst.loadBlock (blockOf c s.inst.ctr s.inst.key)).Fresh c := Instance.fresh_loadBlock rfl rfl
    rw [State.advance_refilled hs ha]
    split
    · exact (State.finish_idle _).inv (hL.atRest hz hB hf)
    · next hrem =>
      exact .inr (.inl ⟨by simp [ha], ⟨r, hsnap, hrest, hlive, hkey⟩, hL, hz, hf, .inl ⟨rfl, hB, hrem⟩⟩)
  · rw [e, State.advance_raise]
    refine (State.raise_idle ..).inv ?_
    simpa [hsnap] using hrest.markFailed hlive.valid
  · have hw : (s.called c).waiting = true := by simp [ha]
    rw [e, State.advance_waiting hw]
    exact .inr (.inr ⟨hw, hs, ⟨r, hsnap, hrest⟩, h.sized⟩)

theorem microStep_inv {c : Config} (hB : 0 < c.blockSize) {s t : State} (h : s.InUpdate c) (hw : s.waiting = false)
    (ht : microStep c s = .next t) : t.Inv c := by
  rcases h.next with ⟨hs, _⟩ | ⟨hs, _⟩
  · exact microStep_combine_inv h (h.combining hw hs) ht
  · exact microStep_refill_inv hB h hs ht

/-! ## The invariant's three kinds of state -/

/-- Between commands, as SEQ says, the registers are at rest. -/
theorem State.Inv.atRest {c : Config} {s : State} (h : s.Inv c) (hs : s.seq = Seq.idle) : s.inst.AtRest c := by
  rcases h with ⟨_, h⟩ | ⟨_, h⟩ | h
  · exact h
  · rcases h.next with ⟨hs', _⟩ | ⟨hs', _⟩ <;> simp [hs] at hs'
  · exact absurd (h.seq.symm.trans hs) Seq.refill_ne_idle

/-- Inside a command, as SEQ says, with no call open, the command is an UPDATE. -/
theorem State.Inv.inUpdate {c : Config} {s : State} (h : s.Inv c) (hs : s.seq ≠ Seq.idle) (hw : s.waiting = false) :
    s.InUpdate c := by
  rcases h with ⟨h, _⟩ | ⟨_, h⟩ | h
  · exact absurd h.seq hs
  · exact h
  · exact absurd (h.waiting.symm.trans hw) (by decide)

/-! ## The obligations about reset and the step -/

theorem State.reset_idle : State.reset.Idle := ⟨rfl, rfl, rfl, rfl, rfl⟩

/-- Settles O11: the reset values are read off, and with no input the engine waits. -/
theorem resetStateWaits : Obligations.ResetStateWaits :=
  ⟨rfl, rfl, State.reset_idle, step_noInput rfl rfl⟩

/-- Settles O38: the reset state is between commands and its registers are at rest. -/
theorem invariantHoldsAtReset : Obligations.InvariantHoldsAtReset :=
  State.reset_idle.inv Instance.reset_atRest

/-- Settles O39: by the way the step is taken; a command starts from registers at rest, and a micro-operation inside an
UPDATE. -/
theorem stepKeepsTheInvariant : Obligations.StepKeepsTheInvariant := by
  intro s t hs ht
  cases step_taken ht with
  | reset rest inputs eq => exact eq ▸ (State.afterReset_idle s rest).inv Instance.reset_atRest
  | stays eq => exact eq ▸ hs
  | executed w operands rest i inputs seq decoded answer =>
    exact exec_inv (s := { s with inputs := rest }) (decodeCommand_hostIssuable decoded) (hs.atRest seq) answer
  | rejected w operands rest inputs seq eq => exact eq ▸ (State.deliver_idle ..).inv (hs.atRest seq)
  | microOp waiting seq round => exact microStep_inv hardware_blockSize_pos (hs.inUpdate seq waiting) waiting round

end Sys2Proof.Machine
end

section
/-! PROOFS. What NEW, UPDATE and the micro-operations write to the registers (10_state R22, R27, R28, R37). -/

namespace Sys2Proof.Machine

/-! ## The registers follow the consumed count -/

/-- The status of a command that delivers one result is the one delivered. -/
theorem deliveredStatus_unique {rs ts : List Result} {a b : Status} {x y : Bytes} (h₁ : ts = rs ++ [⟨a, x⟩])
    (h₂ : ts = rs ++ [⟨b, y⟩]) : a = b := by
  have h := h₁.symm.trans h₂
  simp only [List.append_cancel_left_eq, List.cons.injEq, Result.mk.injEq] at h
  obtain ⟨⟨hstatus, _⟩, _⟩ := h
  exact hstatus

/-- A command that waits has delivered none. -/
theorem results_ne_append {rs ts : List Result} (h : ts = rs) (a : Result) : ts ≠ rs ++ [a] := by
  simp [h]

theorem newCommand_ok_tracks {c : Config} {tag key iv : Bytes} {s : State}
    (h : (newCommand c tag key iv s).results = s.results ++ [⟨.ok, []⟩]) :
    (newCommand c tag key iv s).inst.Tracks c (fromLe64 iv) 0 ∧ (newCommand c tag key iv s).inst.key.bytes = key := by
  cases newCommand_outcome c tag key iv s with
  | error status notOk idle inst results => exact absurd (deliveredStatus_unique results h) notOk
  | built k bytes idle inst results => exact inst ▸ ⟨Instance.built_tracks .., bytes⟩
  | waits k waiting seq snap inst results => exact absurd h (results_ne_append results _)

theorem newCommand_error_inst {c : Config} {tag key iv : Bytes} {s : State} {status : Status} (hst : status ≠ .ok)
    (h : (newCommand c tag key iv s).results = s.results ++ [⟨status, []⟩]) :
    (newCommand c tag key iv s).inst = s.inst := by
  cases newCommand_outcome c tag key iv s with
  | error status notOk idle inst results => exact inst
  | built k bytes idle inst results => exact absurd (deliveredStatus_unique h results) hst
  | waits k waiting seq snap inst results => exact absurd h (results_ne_append results _)

theorem updateCommand_ok_tracks {c : Config} {seed : Counter} {n : Nat} {data out : Bytes} {s t : State}
    (hT : s.inst.Tracks c seed n) (ht : updateCommand c data s = .next t)
    (h : t.results = s.results ++ [⟨.ok, out⟩]) :
    t.inst.Tracks c seed (n + data.length) ∧ t.inst.key = s.inst.key := by
  cases updateCommand_outcome ht with
  | refused status notOk idle inst results => exact absurd (deliveredStatus_unique results h) notOk
  | empty noData idle inst results =>
    subst noData
    exact ⟨inst.symm ▸ hT, congrArg _ inst⟩
  | done out live cursor idle inst results =>
    exact inst ▸ ⟨hT.afterBytes (Nat.zero_lt_of_lt cursor) data.length, rfl⟩
  | failed live idle inst results => cases deliveredStatus_unique results h
  | waits m live waiting seq snap inst results => exact absurd h (results_ne_append results _)

/-- An UPDATE that ends with an error writes FAILED at most. -/
theorem updateCommand_error_inst {c : Config} {data : Bytes} {s t : State} {status : Status} (hst : status ≠ .ok)
    (ht : updateCommand c data s = .next t) (h : t.results = s.results ++ [⟨status, []⟩]) :
    t.inst = s.inst ∨ t.inst = s.inst.markFailed := by
  cases updateCommand_outcome ht with
  | refused status notOk idle inst results => exact .inl inst
  | empty noData idle inst results => exact .inl inst
  | done out live cursor idle inst results => exact absurd (deliveredStatus_unique h results) hst
  | failed live idle inst results => exact .inr inst
  | waits m live waiting seq snap inst results => exact absurd h (results_ne_append results _)

/-- Settles O40: a NEW that succeeds starts the count, an UPDATE that succeeds adds its length, and an error writes
FAILED at most. -/
theorem registersFollowTheConsumedCount : Obligations.RegistersFollowTheConsumedCount := by
  refine ⟨?_, ?_, ?_⟩
  · intro s t dir tag key iv ht h
    rw [exec_new] at ht
    cases ht
    exact newCommand_ok_tracks h
  · intro s t seed n data out hT ht h
    exact updateCommand_ok_tracks hT ht h
  · intro s t seed n i status hT hi ht hst h
    cases i with
    | new dir tag key iv =>
      rw [exec_new] at ht
      cases ht
      rw [newCommand_error_inst hst h]
      exact ⟨hT, rfl⟩
    | update data =>
      rcases updateCommand_error_inst hst ht h with e | e <;> rw [e]
      · exact ⟨hT, rfl⟩
      · exact ⟨hT.markFailed, rfl⟩
    | combine => cases hi
    | refill => cases hi

/-! ## Who writes KEY and the flags -/

theorem updateCommand_keyAndFlags {c : Config} {data : Bytes} {s t : State} (ht : updateCommand c data s = .next t) :
    t.inst.key = s.inst.key ∧ t.inst.valid = s.inst.valid ∧ (s.inst.failed = true → t.inst.failed = true) := by
  cases updateCommand_outcome ht with
  | refused status notOk idle inst results => exact inst ▸ ⟨rfl, rfl, id⟩
  | empty noData idle inst results => exact inst ▸ ⟨rfl, rfl, id⟩
  | done out live cursor idle inst results => exact inst ▸ ⟨rfl, rfl, id⟩
  | failed live idle inst results => exact inst ▸ ⟨rfl, rfl, fun _ => rfl⟩
  | waits m live waiting seq snap inst results => exact inst ▸ ⟨rfl, rfl, id⟩

theorem combineOp_eq_next {c : Config} {s t : State} (h : combineOp c s = .next t) : t = s.combineChunk c := by
  unfold combineOp at h
  split at h <;> cases h
  rfl

/-- Inside an UPDATE the snapshot has the running registers' KEY and flags, so that a failed call changes FAILED
alone. -/
theorem State.InUpdate.refill_keyAndFlags {c : Config} {s : State} (h : s.InUpdate c) :
    (s.refill c true).inst.key = s.inst.key ∧ (s.refill c true).inst.valid = s.inst.valid ∧
      ((s.refill c true).inst.failed = true ↔ s.CallFails c 0) := by
  obtain ⟨r, hsnap, _, hlive, hkey⟩ := h.snap
  rcases s.refill_cases c true with ⟨ha, e⟩ | ⟨hf, e⟩ | ⟨ha, e⟩ <;> rw [e]
  · exact ⟨rfl, rfl, by simp [h.live.failed], fun hf => absurd ha hf.ne_returns⟩
  · simp [hsnap, hkey, hlive.valid, h.live.valid, hf]
  · exact ⟨rfl, rfl, by simp [h.live.failed], fun hf => absurd ha hf.ne_never⟩

theorem newCommand_flags (c : Config) (tag key iv : Bytes) (s : State) :
    (s.inst.valid = true → (newCommand c tag key iv s).inst.valid = true) ∧
      ((newCommand c tag key iv s).inst.failed = s.inst.failed ∨
        ((newCommand c tag key iv s).inst.failed = false ∧ (newCommand c tag key iv s).inst.valid = true ∧
          (newCommand c tag key iv s).results = s.results ++ [⟨.ok, []⟩])) := by
  cases newCommand_outcome c tag key iv s with
  | error status notOk idle inst results => exact inst ▸ ⟨id, .inl rfl⟩
  | built k bytes idle inst results => exact inst ▸ ⟨fun _ => rfl, .inr ⟨rfl, rfl, results⟩⟩
  | waits k waiting seq snap inst results => exact inst ▸ ⟨id, .inl rfl⟩

/-- Settles O44: operation by operation, from the ways each can end. -/
theorem whoWritesKeyAndFlags : Obligations.WhoWritesKeyAndFlags := by
  intro s t
  refine ⟨fun data ht => updateCommand_keyAndFlags ht, fun ht => ?_, fun hU ht => ?_, fun dir tag key iv ht => ?_⟩
  · exact combineOp_eq_next ht ▸ ⟨rfl, rfl, rfl, rfl, rfl⟩
  · rw [exec_refill] at ht
    cases ht
    exact hU.refill_keyAndFlags
  · rw [exec_new] at ht
    cases ht
    exact newCommand_flags Config.hardware tag key iv s

end Sys2Proof.Machine
end

section
/-! PROOFS. What a step between commands does, what a command that ends with an error leaves, what every operation does
to the interfaces, and the engines of a platform (20_memory R58, R60, R63). -/

namespace Sys2Proof.Machine

/-! ## The presented command -/

/-- Settles O7: `step_command`, at an operation that the decoder gives. -/
theorem stepRunsThePresentedCommand : Obligations.StepRunsThePresentedCommand := by
  intro s w operands rest i hidle hinputs hdecode
  have hd : decodeCommand w operands = .ok i := hdecode
  rw [step_command hinputs hidle.waiting hidle.seq, hd]

/-- Only UPDATE's word decodes to an UPDATE (30_encoding R71). -/
theorem word_of_decodeCommand_update {w : CommandWord} {operands : List Bytes} {data : Bytes}
    (h : decodeCommand w operands = .ok (.update data)) : w = 0x00000002#32 := by
  unfold decodeCommand at h
  split at h
  · obtain ⟨_, _, _, _, hi⟩ := decodeNew_eq_ok.mp h
    cases hi
  · split at h
    · assumption
    · cases h

/-! ## Commands that end with an error -/

/-- A command delivers one result. -/
theorem deliveredResult_unique {rs ts : List Result} {a b : Result} (h₁ : ts = rs ++ [a]) (h₂ : ts = rs ++ [b]) :
    a = b := by
  simpa using h₁.symm.trans h₂

theorem newCommand_error_atomic {c : Config} {tag key iv : Bytes} {s : State} {r : Result}
    (h : (newCommand c tag key iv s).results = s.results ++ [r]) (hr : r.status ≠ .ok) :
    r.out = [] ∧ (newCommand c tag key iv s).inst = s.inst := by
  cases newCommand_outcome c tag key iv s with
  | error status notOk idle inst results => exact deliveredResult_unique results h ▸ ⟨rfl, inst⟩
  | built k bytes idle inst results => exact absurd (deliveredResult_unique results h ▸ rfl) hr
  | waits k waiting seq snap inst results => exact absurd h (results_ne_append results _)

theorem updateCommand_error_atomic {c : Config} {data : Bytes} {s t : State} {r : Result}
    (ht : updateCommand c data s = .next t) (h : t.results = s.results ++ [r]) (hr : r.status ≠ .ok) :
    r.out = [] ∧ (t.inst = s.inst ∨ (r.status = .keystreamGenerationFailure ∧ t.inst = s.inst.markFailed)) := by
  cases updateCommand_outcome ht with
  | refused status notOk idle inst results => exact deliveredResult_unique results h ▸ ⟨rfl, .inl inst⟩
  | empty noData idle inst results => exact absurd (deliveredResult_unique results h ▸ rfl) hr
  | done out live cursor idle inst results => exact absurd (deliveredResult_unique results h ▸ rfl) hr
  | failed live idle inst results => exact deliveredResult_unique results h ▸ ⟨rfl, .inr ⟨rfl, inst⟩⟩
  | waits m live waiting seq snap inst results => exact absurd h (results_ne_append results _)

/-- Settles O42: a rejected command delivers its result and nothing else, and NEW and UPDATE by the ways each can end. -/
theorem commandsAreAtomic : Obligations.CommandsAreAtomic := by
  intro s t w operands rest r hidle hinputs hstep hresults hstatus
  rw [step_command hinputs hidle.waiting hidle.seq] at hstep
  cases hd : decodeCommand w operands with
  | error rejection =>
    simp only [hd] at hstep
    cases hstep
    exact deliveredResult_unique (a := ⟨.illegalCommand, []⟩) rfl hresults ▸ ⟨rfl, .inl rfl⟩
  | ok i =>
    simp only [hd] at hstep
    cases i with
    | new dir tag key iv =>
      rw [exec_new] at hstep
      cases hstep
      obtain ⟨hout, hinst⟩ := newCommand_error_atomic hresults hstatus
      exact ⟨hout, .inl hinst⟩
    | update data =>
      obtain ⟨hout, hinst⟩ := updateCommand_error_atomic hstep hresults hstatus
      exact ⟨hout, hinst.imp_right fun ⟨hfail, hmark⟩ => ⟨word_of_decodeCommand_update hd, hfail, hmark⟩⟩
    | combine => cases decodeCommand_hostIssuable hd
    | refill => cases decodeCommand_hostIssuable hd

/-! ## The interfaces -/

/-- From `s` to `t` the inputs and the engine's number stay, and the results and the requests only grow. -/
structure State.GrowsTo (s t : State) : Prop where
  inputs : t.inputs = s.inputs
  engine : t.engine = s.engine
  results : s.results <+: t.results
  requests : s.requests <+: t.requests

theorem State.growsTo_refill (c : Config) (f : Bool) (s : State) : s.GrowsTo (s.refill c f) := by
  rcases s.refill_cases c f with ⟨_, e⟩ | ⟨_, e⟩ | ⟨_, e⟩ <;> rw [e]
  · exact ⟨rfl, rfl, List.prefix_rfl, List.prefix_append ..⟩
  · exact ⟨rfl, rfl, List.prefix_append .., List.prefix_append ..⟩
  · exact ⟨rfl, rfl, List.prefix_rfl, List.prefix_append ..⟩

theorem State.growsTo_newCommand (c : Config) (tag key iv : Bytes) (s : State) :
    s.GrowsTo (newCommand c tag key iv s) := by
  rcases newCommand_cases c tag key iv s with
    ⟨_, _, _, e⟩ | ⟨_, _, _, ⟨_, e⟩ | ⟨_, e⟩ | ⟨_, e⟩⟩ <;> rw [e]
  · exact ⟨rfl, rfl, List.prefix_append .., List.prefix_rfl⟩
  · exact ⟨rfl, rfl, List.prefix_append .., List.prefix_append ..⟩
  · exact ⟨rfl, rfl, List.prefix_append .., List.prefix_append ..⟩
  · exact ⟨rfl, rfl, List.prefix_rfl, List.prefix_append ..⟩

/-- However a run ends, it adds its calls, and its result if it has one. -/
theorem RunEnds.growsTo {c : Config} {r : Instance} {s t : State} (h : RunEnds c r s t) : s.GrowsTo t := by
  refine ⟨h.inputs, h.engine, ?_, ?_⟩
  · rcases h.ends with ⟨_, _, _, _, _, hres, _⟩ | ⟨_, _, _, _, ⟨_, _, _, hres⟩ | ⟨_, _, _, _, _, hres⟩⟩ <;> rw [hres]
    · exact List.prefix_append ..
    · exact List.prefix_append ..
  · rcases h.ends with ⟨_, _, hreq, _⟩ | ⟨_, _, _, hreq, _⟩ <;> rw [hreq] <;> exact List.prefix_append ..

theorem State.growsTo_updateCommand {c : Config} {data : Bytes} {s t : State}
    (h : updateCommand c data s = .next t) : s.GrowsTo t := by
  rcases updateCommand_cases c data s with
    ⟨_, e⟩ | ⟨_, _, e⟩ | ⟨_, _, e⟩ | ⟨_, _, _, e⟩ | ⟨_, _, _, u, e, hends⟩ <;> rw [e] at h <;> cases h
  · exact ⟨rfl, rfl, List.prefix_append .., List.prefix_rfl⟩
  · exact ⟨rfl, rfl, List.prefix_append .., List.prefix_rfl⟩
  · exact ⟨rfl, rfl, List.prefix_append .., List.prefix_rfl⟩
  · obtain ⟨hinputs, hengine, hresults, hrequests⟩ := hends.growsTo
    exact ⟨hinputs, hengine, hresults, hrequests⟩

theorem State.growsTo_exec {i : Instr} {s t : State} (h : exec i s = .next t) : s.GrowsTo t := by
  cases i with
  | new dir tag key iv =>
    rw [exec_new] at h
    cases h
    exact s.growsTo_newCommand ..
  | update data => exact State.growsTo_updateCommand h
  | combine => exact combineOp_eq_next h ▸ ⟨rfl, rfl, List.prefix_rfl, List.prefix_rfl⟩
  | refill =>
    rw [exec_refill] at h
    cases h
    exact s.growsTo_refill ..

/-- Settles O45: operation by operation, from the ways each can end. -/
theorem interfacesOnlyGrow : Obligations.InterfacesOnlyGrow := by
  intro i s t h
  obtain ⟨hinputs, hengine, hresults, hrequests⟩ := State.growsTo_exec h
  exact ⟨hinputs, hengine, hresults, hrequests⟩

/-! ## The engines of a platform -/

/-- Settles O50, by induction on the schedule: a step of an engine is the first of its own steps, and no other's. -/
theorem enginesAreIndependent : Obligations.EnginesAreIndependent := by
  intro p schedule j
  induction schedule generalizing p with
  | nil => simp [Platform.run, State.afterSteps]
  | cons k ks ih =>
    rw [Platform.run, ih, Platform.stepEngine, List.getElem?_modify]
    by_cases hk : k = j
    · subst hk
      simp [List.count_cons_self, Function.comp_def, State.afterSteps]
    · simp [List.count_cons_of_ne hk, hk]

end Sys2Proof.Machine
end

section
/-! PROOFS. The calls of an UPDATE, and those of a NEW and all the UPDATEs after it, use consecutive counters (10_state
R38, 20_memory R69). -/

namespace Sys2Proof.Machine

/-! ## Requests in counter order -/

theorem le64_injective : Function.Injective le64 := Function.LeftInverse.injective fromLe64_le64

/-- 2^64 consecutive counters are distinct. -/
theorem counter_add_ofNat_inj {ctr : Counter} {i j : Nat} (hi : i < 2 ^ 64) (hj : j < 2 ^ 64)
    (h : ctr + BitVec.ofNat 64 i = ctr + BitVec.ofNat 64 j) : i = j := by
  have h' := congrArg BitVec.toNat (add_left_cancel h)
  rwa [BitVec.toNat_ofNat, BitVec.toNat_ofNat, Nat.mod_eq_of_lt hi, Nat.mod_eq_of_lt hj] at h'

theorem Instance.requestsFor_nonces_nodup {c : Config} (r : Instance) {n : Nat} (hn : n ≤ 2 ^ 64) :
    ((r.requestsFor c n).map (·.nonce)).Nodup := by
  rw [Instance.requestsFor, List.map_map]
  refine List.Nodup.map_on (fun i hi j hj h => ?_) List.nodup_range
  exact counter_add_ofNat_inj ((List.mem_range.mp hi).trans_le hn) ((List.mem_range.mp hj).trans_le hn)
    (le64_injective h)

@[simp] theorem Instance.requestsFor_zero (c : Config) (r : Instance) : r.requestsFor c 0 = [] := rfl

/-- After `m` calls the requests go on from the registers that have counted them. -/
theorem Instance.requestsFor_append {c : Config} {r u : Instance} {m : Nat} (n : Nat) (hk : u.key = r.key)
    (hc : u.ctr = r.ctr + BitVec.ofNat 64 m) :
    r.requestsFor c m ++ u.requestsFor c n = r.requestsFor c (m + n) := by
  simp only [Instance.requestsFor, hk, hc, List.range_add, List.map_append, List.map_map, Function.comp_def,
    BitVec.ofNat_add, add_assoc]

/-! ## The calls of one UPDATE -/

/-- No UPDATE makes a call from these registers: FAILED is set, or CURSOR stands at the end of the block. -/
def Instance.Spent (c : Config) (r : Instance) : Prop := r.failed = true ∨ c.blockSize ≤ r.cursor

/-- An UPDATE makes its calls in counter order, and leaves either registers that have counted them or spent ones. -/
theorem updateCommand_calls {c : Config} {data : Bytes} {s t : State} (h : updateCommand c data s = .next t) :
    ∃ n, t.requests = s.requests ++ s.inst.requestsFor c n ∧
      (t.inst.Spent c ∨ (t.inst.key = s.inst.key ∧ t.inst.ctr = s.inst.ctr + BitVec.ofNat 64 n)) := by
  rcases updateCommand_cases c data s with
    ⟨_, e⟩ | ⟨_, _, e⟩ | ⟨_, _, e⟩ | ⟨_, _, _, e⟩ | ⟨_, _, _, u, e, hends⟩ <;> rw [e] at h <;> cases h
  · exact ⟨0, by simp, .inr ⟨rfl, by simp⟩⟩
  · exact ⟨0, by simp, .inr ⟨rfl, by simp⟩⟩
  · exact ⟨0, by simp, .inr ⟨rfl, by simp⟩⟩
  · rcases hends.ends with
      ⟨_, _, hreq, hinst, _⟩ | ⟨m, _, _, hreq, ⟨_, _, hinst, _⟩ | ⟨_, _, _, _, hinst, _⟩⟩
    · exact ⟨_, hreq, .inr (hinst ▸ ⟨rfl, rfl⟩)⟩
    · exact ⟨m + 1, hreq, .inl (hinst ▸ .inl rfl)⟩
    · exact ⟨m + 1, hreq, .inl (hinst ▸ .inr le_rfl)⟩

/-- From spent registers an UPDATE makes no call and changes no register. -/
theorem updateCommand_spent {c : Config} {data : Bytes} {s t : State} (hs : s.inst.Spent c)
    (h : updateCommand c data s = .next t) : t.requests = s.requests ∧ t.inst = s.inst := by
  rcases updateCommand_cases c data s with
    ⟨_, e⟩ | ⟨_, _, e⟩ | ⟨_, _, e⟩ | ⟨_, _, _, e⟩ | ⟨hL, _, hc, _⟩
  · rw [e] at h; cases h; exact ⟨rfl, rfl⟩
  · rw [e] at h; cases h; exact ⟨rfl, rfl⟩
  · rw [e] at h; cases h; exact ⟨rfl, rfl⟩
  · rw [e] at h; cases h
  · rcases hs with hf | hb
    · exact absurd (hf.symm.trans hL.failed) (by decide)
    · exact absurd hb hc.not_ge

/-- Settles O46: the calls are those of `updateCommand_calls`. -/
theorem callsUseDistinctCounters : Obligations.CallsUseDistinctCounters := by
  intro s t data calls h hcalls
  obtain ⟨n, hreq, _⟩ := updateCommand_calls h
  have hn : calls = s.inst.requestsFor Config.hardware n := by rw [hcalls, hreq, List.drop_left]
  subst hn
  rw [Instance.requestsFor_length]
  exact ⟨rfl, s.inst.requestsFor_nonces_nodup⟩

/-! ## The calls of a NEW and the UPDATEs after it -/

/-- `n` calls have been made since the requests `before`, in counter order from `r`'s on, and the registers have counted
them or are spent. -/
structure State.HasCalled (c : Config) (r : Instance) (before : List Request) (n : Nat) (s : State) : Prop where
  requests : s.requests = before ++ r.requestsFor c n
  registers : s.inst.Spent c ∨ (s.inst.key = r.key ∧ s.inst.ctr = r.ctr + BitVec.ofNat 64 n)

theorem State.HasCalled.updateCommand {c : Config} {r : Instance} {before : List Request} {n : Nat} {data : Bytes}
    {s t : State} (hs : s.HasCalled c r before n) (h : updateCommand c data s = .next t) :
    ∃ m ≥ n, t.HasCalled c r before m := by
  rcases hs.registers with hspent | ⟨hkey, hctr⟩
  · obtain ⟨hreq, hinst⟩ := updateCommand_spent hspent h
    exact ⟨n, le_rfl, hreq.trans hs.requests, .inl (hinst ▸ hspent)⟩
  · obtain ⟨k, hreq, hend⟩ := updateCommand_calls h
    refine ⟨n + k, Nat.le_add_right .., ?_, hend.imp_right fun ⟨hkey', hctr'⟩ => ⟨hkey'.trans hkey, ?_⟩⟩
    · rw [hreq, hs.requests, List.append_assoc, Instance.requestsFor_append k hkey hctr]
    · rw [hctr', hctr, add_assoc, BitVec.ofNat_add]

theorem State.HasCalled.feed {r : Instance} {before : List Request} {pieces : List Bytes} {t : State} :
    ∀ {n : Nat} {s : State}, s.HasCalled Config.hardware r before n → Machine.feed pieces s = .next t →
      ∃ m ≥ n, t.HasCalled Config.hardware r before m := by
  induction pieces with
  | nil =>
    intro n s hs h
    cases h
    exact ⟨n, le_rfl, hs⟩
  | cons piece pieces ih =>
    intro n s hs h
    rw [Machine.feed, exec_update] at h
    cases hu : Machine.updateCommand Config.hardware piece s with
    | next u =>
      rw [hu] at h
      obtain ⟨m, hm, hcalled⟩ := hs.updateCommand hu
      obtain ⟨k, hk, hcalled'⟩ := ih hcalled h
      exact ⟨k, hm.trans hk, hcalled'⟩
    | fault f => rw [hu] at h; cases h
    | refused e => rw [hu] at h; cases h

/-- A NEW that succeeds makes one call, with the seed and the key operand (40_construction R100). -/
theorem newCommand_ok_requests {c : Config} {tag key iv : Bytes} {s : State}
    (h : (newCommand c tag key iv s).results = s.results ++ [⟨.ok, []⟩]) :
    (newCommand c tag key iv s).requests = s.requests ++ [⟨c.blockSize, le64 (fromLe64 iv), key⟩] := by
  rcases newCommand_cases c tag key iv s with
    ⟨status, hst, _, e⟩ | ⟨k, seed, hok, ⟨_, e⟩ | ⟨_, e⟩ | ⟨_, e⟩⟩ <;> rw [e] at h ⊢
  · exact absurd (deliveredStatus_unique rfl h) hst
  · obtain ⟨rfl, rfl⟩ := eq_of_newOperands_ok hok
    rfl
  · cases deliveredStatus_unique rfl h
  · exact absurd h (results_ne_append rfl _)

/-- A NEW that succeeds has made the first call. -/
theorem newCommand_ok_hasCalled {c : Config} {tag key iv : Bytes} {s e : State} (he : e = newCommand c tag key iv s)
    (h : e.results = s.results ++ [⟨.ok, []⟩]) :
    e.HasCalled c { e.inst with ctr := fromLe64 iv } s.requests 1 := by
  subst he
  obtain ⟨hT, hkey⟩ := newCommand_ok_tracks h
  refine ⟨?_, .inr ⟨rfl, by simp [hT.ctr]⟩⟩
  rw [newCommand_ok_requests h]
  simp [Instance.requestsFor, hkey]

/-- Settles O51, by induction on the pieces: NEW makes the first call, and each UPDATE goes on from the counter that the
calls before it have reached, or makes none. -/
theorem instanceCallsUseDistinctCounters : Obligations.InstanceCallsUseDistinctCounters := by
  intro s e t dir tag key iv pieces calls hnew hresults hfeed hcalls
  rw [exec_new] at hnew
  cases hnew
  obtain ⟨n, hn, hreq, _⟩ := (newCommand_ok_hasCalled rfl hresults).feed hfeed
  have hkey := (newCommand_ok_tracks hresults).2
  rw [hreq, List.drop_left] at hcalls
  subst hcalls
  rw [Instance.requestsFor_length]
  refine ⟨hn, ?_, Instance.requestsFor_nonces_nodup _⟩
  simp [Instance.requestsFor, hkey]

end Sys2Proof.Machine
end

section
/-! PROOFS. The decoder and the encoder are inverse to each other, and what the decoder accepts is what R72 and R73 say
and what passes the checks on the fields (30_encoding R71 to R73, R76, R77). -/

namespace Sys2Proof
open Machine

/-! ## The command word -/

/-- A word is its bits under R72's mask and its bit 4, which is all that the mask leaves out. -/
theorem CommandWord.eq_masked_or_dir (w : CommandWord) :
    w = (w &&& 0xFFFFFFEF#32) ||| (if w.dir then 0x10#32 else 0#32) := by
  have hbit : w &&& 0x10#32 = if w.dir then 0x10#32 else 0#32 := BitVec.and_twoPow w 4
  calc w = w &&& (0xFFFFFFEF#32 ||| 0x10#32) := (BitVec.and_allOnes (x := w)).symm
    _ = (w &&& 0xFFFFFFEF#32) ||| (if w.dir then 0x10#32 else 0#32) := by rw [BitVec.and_or_distrib_left, hbit]

/-- R72's test for NEW passes exactly the words of NEW. -/
theorem CommandWord.masked_eq_one_iff {w : CommandWord} :
    w &&& 0xFFFFFFEF#32 = 0x00000001#32 ↔ newWord (.ofBit w.dir) = w := by
  constructor
  · intro h
    rw [w.eq_masked_or_dir.trans (by rw [h])]
    cases w.dir <;> rfl
  · intro h
    rw [← h]
    cases w.dir <;> rfl

/-- With the reserved bits zero, DIR and OPC are the whole word (R71). -/
theorem CommandWord.toNat_eq_of_rsv_eq_zero {w : CommandWord} (h : w.rsv = 0) :
    w.toNat = 16 * w.dir.toNat + w.opc.toNat := by
  have hrsv : w.toNat / 32 % 2 ^ 27 = 0 := by
    simpa [CommandWord.rsv, BitVec.extractLsb'_toNat, Nat.shiftRight_eq_div_pow] using congrArg BitVec.toNat h
  have hdir : w.dir.toNat = w.toNat / 16 % 2 := by
    simp [CommandWord.dir, BitVec.getLsbD, Nat.toNat_testBit]
  have hopc : w.opc.toNat = w.toNat % 16 := by simp [CommandWord.opc]
  have hw : w.toNat < 2 ^ 32 := w.isLt
  omega

theorem newWord_ofBit_dir_of_fields {w : CommandWord} (hr : w.rsv = 0) (ho : w.opc = 0b0001#4) :
    newWord (.ofBit w.dir) = w := by
  apply BitVec.eq_of_toNat_eq
  rw [w.toNat_eq_of_rsv_eq_zero hr, ho]
  cases w.dir <;> rfl

theorem eq_updateWord_of_fields {w : CommandWord} (hr : w.rsv = 0) (ho : w.opc = 0b0010#4) (hd : w.dir = false) :
    w = 0x00000002#32 := by
  apply BitVec.eq_of_toNat_eq
  rw [w.toNat_eq_of_rsv_eq_zero hr, ho, hd]
  rfl

/-! ## The decoder on commands -/

@[simp] theorem decodeCommand_newWord (dir : Direction) (operands : List Bytes) :
    decodeCommand (newWord dir) operands = decodeNew dir operands := by cases dir <;> rfl

@[simp] theorem decodeCommand_updateWord (operands : List Bytes) :
    decodeCommand 0x00000002#32 operands = decodeUpdate operands := rfl

/-- R72 with R73. -/
theorem decodeCommand_eq_ok {w : CommandWord} {operands : List Bytes} {i : Instr} :
    decodeCommand w operands = .ok i ↔
      (∃ tag key iv, w &&& 0xFFFFFFEF#32 = 0x00000001#32 ∧ operands = [tag, key, iv] ∧
        i = .new (.ofBit w.dir) tag key iv) ∨
      (∃ data, w = 0x00000002#32 ∧ operands = [data] ∧ i = .update data) := by
  by_cases hnew : w &&& 0xFFFFFFEF#32 = 0x00000001#32
  · have hne : w ≠ 0x00000002#32 := fun h => absurd (h ▸ hnew) (by decide)
    simp [decodeCommand, hnew, hne, decodeNew_eq_ok]
  · by_cases hupdate : w = 0x00000002#32
    · subst hupdate
      simp [decodeUpdate_eq_ok]
    · simp [decodeCommand, hnew, hupdate]

/-- Settles O2: `decodeCommand_eq_ok`, with the direction written out. -/
theorem decodeReadsTheCommandWord : Obligations.DecodeReadsTheCommandWord :=
  fun _ _ _ => decodeCommand_eq_ok

/-! ## The encoder -/

theorem decode_encode (i : Instr) : decode (encode i) = .ok i := by
  cases i with
  | new dir tag key iv => exact decodeCommand_newWord dir [tag, key, iv]
  | update data => rfl
  | combine => rfl
  | refill => rfl

theorem encode_of_decode {e : Encoded} {i : Instr} (h : decode e = .ok i) : encode i = e := by
  cases e with
  | command w operands =>
    rcases decodeCommand_eq_ok.mp h with ⟨tag, key, iv, hw, rfl, rfl⟩ | ⟨data, rfl, rfl, rfl⟩
    · rw [encode, CommandWord.masked_eq_one_iff.mp hw]
    · rfl
  | uop code =>
    rcases decodeUop_eq_ok.mp h with ⟨rfl, rfl⟩ | ⟨rfl, rfl⟩ <;> rfl

/-- Settles O3: operation by operation one way, and by what each kind of encoding decodes to the other way. -/
theorem encodingIsOneToOne : Obligations.EncodingIsOneToOne :=
  ⟨decode_encode, fun _ _ => encode_of_decode⟩

/-! ## The checks on the fields -/

theorem wellFormed_encode (i : Instr) : (encode i).wellFormed = true := by
  cases i with
  | new dir tag key iv => exact (Laws.EncodesWellFormed.new dir tag key iv).1
  | update data => exact (Laws.EncodesWellFormed.update data).1
  | combine => exact Laws.EncodesWellFormed.combine.1
  | refill => exact Laws.EncodesWellFormed.refill.1

/-- The operation codes that take operands are NEW's, with three, and UPDATE's, with one (R73). -/
theorem operandCount_eq_some {opc : BitVec 4} {n : Nat} :
    operandCount opc = some n ↔ (opc = 0b0001#4 ∧ n = 3) ∨ (opc = 0b0010#4 ∧ n = 1) := by
  unfold operandCount
  split
  · next h => simp [h, eq_comm]
  · next h =>
    split
    · next h' => simp [h', eq_comm]
    · next h' => simp [h, h']

/-- A command that passes the checks is an operation's encoding. -/
theorem exists_encode_of_wellFormed_command {w : CommandWord} {operands : List Bytes}
    (h : (Encoded.command w operands).wellFormed = true) : ∃ i, encode i = .command w operands := by
  simp only [Encoded.wellFormed, Bool.and_eq_true, CommandWord.reservedZero, operandsMatch, beq_iff_eq] at h
  obtain ⟨⟨⟨_, hdir⟩, hrsv⟩, hcount⟩ := h
  rcases operandCount_eq_some.mp hcount with ⟨hopc, hlen⟩ | ⟨hopc, hlen⟩
  · obtain ⟨tag, key, iv, rfl⟩ := List.length_eq_three.mp hlen
    exact ⟨.new (.ofBit w.dir) tag key iv, by rw [encode, newWord_ofBit_dir_of_fields hrsv hopc]⟩
  · obtain ⟨data, rfl⟩ := List.length_eq_one_iff.mp hlen
    have hd : w.dir = false := by simpa [CommandWord.dirAllowed, hopc] using hdir
    exact ⟨.update data, by rw [encode, ← eq_updateWord_of_fields hrsv hopc hd]⟩

/-- The encodings that pass the checks are the operations' encodings. -/
theorem wellFormed_iff_exists_encode {e : Encoded} : e.wellFormed = true ↔ ∃ i, encode i = e := by
  constructor
  · intro h
    cases e with
    | command w operands => exact exists_encode_of_wellFormed_command h
    | uop code =>
      have hcode : code = 0b01#2 ∨ code = 0b10#2 := by simpa [Encoded.wellFormed, SeqCode.isUop] using h
      rcases hcode with rfl | rfl
      · exact ⟨.combine, rfl⟩
      · exact ⟨.refill, rfl⟩
  · rintro ⟨i, rfl⟩
    exact wellFormed_encode i

/-- Settles O4: both are that the encoding is an operation's. -/
theorem wellFormedExactlyWhenDecoded : Obligations.WellFormedExactlyWhenDecoded := fun _ =>
  wellFormed_iff_exists_encode.trans
    (exists_congr fun _ => ⟨fun h => h ▸ decode_encode _, encode_of_decode⟩)

/-! ## The spec's words and codes -/

/-- The ILLEGAL words of the table E4 to E10 (95_test_vectors) fail both tests of R72. -/
theorem illegalWords_fail_tests :
    ∀ w ∈ [0x00000000#32, 0x00000003#32, 0x0000000F#32, 0x00000012#32, 0x00000022#32, 0x00000101#32, 0x80000001#32],
      w &&& 0xFFFFFFEF#32 ≠ 0x00000001#32 ∧ w ≠ 0x00000002#32 := by simp

/-- Settles O1: the words and codes of R71 and R76 are the operations' encodings, and the ILLEGAL words fail both tests
of R72. -/
theorem specWordsDecode : Obligations.SpecWordsDecode := by
  refine ⟨fun tag key iv => decode_encode (.new .encrypt tag key iv),
    fun tag key iv => decode_encode (.new .decrypt tag key iv), fun data => decode_encode (.update data),
    decode_encode .combine, decode_encode .refill, fun w hw operands i h => ?_⟩
  obtain ⟨hnew, hupdate⟩ := illegalWords_fail_tests w hw
  rcases decodeCommand_eq_ok.mp h with ⟨_, _, _, hw', _⟩ | ⟨_, hw', _⟩
  · exact hnew hw'
  · exact hupdate hw'

theorem Machine.Status.ofCode_code (a : Status) : Status.ofCode a.code = some a := by cases a <;> rfl

theorem Machine.Status.code_lt (a : Status) : a.code.toNat < 7 := by cases a <;> decide

/-- Settles O6: the seven codes are read off, and the rest is by status. -/
theorem statusCodesAreTheTables : Obligations.StatusCodesAreTheTables :=
  ⟨rfl, rfl, rfl, rfl, rfl, rfl, rfl, Status.ofCode_code, Status.code_lt⟩

end Sys2Proof
end

section
/-! PROOFS. No step delivers a byte with an error (30_encoding R75, 60_exceptions R205). -/

namespace Sys2Proof.Machine

/-- From the results `rs` to the results `ts` at most one is delivered, and it is OK or brings no byte. -/
inductive DeliversCleanly (rs ts : List Result) : Prop where
  | nothing (eq : ts = rs)
  | ok (out : Bytes) (eq : ts = rs ++ [⟨.ok, out⟩])
  | error (status : Status) (eq : ts = rs ++ [⟨status, []⟩])

theorem DeliversCleanly.out_eq_nil {rs ts : List Result} (h : DeliversCleanly rs ts) {r : Result}
    (hr : r ∈ ts.drop rs.length) (hst : r.status ≠ .ok) : r.out = [] := by
  cases h with
  | nothing eq => simp [eq] at hr
  | ok out eq =>
    have hr' : r = ⟨.ok, out⟩ := by simpa [eq] using hr
    exact absurd (hr' ▸ rfl) hst
  | error status eq =>
    have hr' : r = ⟨status, []⟩ := by simpa [eq] using hr
    rw [hr']

theorem newCommand_delivers (c : Config) (tag key iv : Bytes) (s : State) :
    DeliversCleanly s.results (newCommand c tag key iv s).results := by
  cases newCommand_outcome c tag key iv s with
  | error status notOk idle inst results => exact .error status results
  | built k bytes idle inst results => exact .ok [] results
  | waits k waiting seq snap inst results => exact .nothing results

theorem updateCommand_delivers {c : Config} {data : Bytes} {s t : State} (h : updateCommand c data s = .next t) :
    DeliversCleanly s.results t.results := by
  cases updateCommand_outcome h with
  | refused status notOk idle inst results => exact .error status results
  | empty noData idle inst results => exact .ok [] results
  | done out live cursor idle inst results => exact .ok out results
  | failed live idle inst results => exact .error _ results
  | waits m live waiting seq snap inst results => exact .nothing results

theorem exec_delivers {i : Instr} {s t : State} (hi : i.hostIssuable = true) (h : exec i s = .next t) :
    DeliversCleanly s.results t.results := by
  cases i with
  | new dir tag key iv =>
    rw [exec_new] at h
    cases h
    exact newCommand_delivers ..
  | update data => exact updateCommand_delivers h
  | combine => cases hi
  | refill => cases hi

/-- The sequencer's transition delivers the accumulated output with OK, or nothing (42_update R144). -/
theorem State.advance_delivers {c : Config} {s : State} {rs : List Result} (h : s.results = rs) :
    DeliversCleanly rs (s.advance c).results := by
  subst h
  unfold State.advance
  split
  · exact .nothing rfl
  · split
    · split
      · exact .nothing rfl
      · exact .ok s.outacc rfl
    · split
      · split
        · exact .ok s.outacc rfl
        · exact .nothing rfl
      · exact .nothing rfl

theorem sequenced_eq_next {c : Config} {o : Host.Outcome State Fault Refusal} {t : State}
    (h : sequenced c o = .next t) : ∃ u, o = .next u ∧ t = u.advance c := by
  cases o with
  | next u => exact ⟨u, rfl, by cases h; rfl⟩
  | fault f => cases h
  | refused r => cases h

/-- A COMBINE and an answered or waiting REFILL deliver nothing themselves, and nothing follows a failed REFILL's
error. -/
theorem microStep_delivers {c : Config} {s t : State} (h : microStep c s = .next t) :
    DeliversCleanly s.results t.results := by
  unfold microStep at h
  split at h
  · obtain ⟨u, hu, rfl⟩ := sequenced_eq_next h
    rw [combineOp_eq_next hu]
    exact State.advance_delivers rfl
  · split at h
    · cases h
      rcases s.refill_cases c true with ⟨_, e⟩ | ⟨_, e⟩ | ⟨_, e⟩ <;> rw [e]
      · exact State.advance_delivers rfl
      · rw [State.advance_raise]
        exact .error .keystreamGenerationFailure rfl
      · exact State.advance_delivers rfl
    · cases h

theorem step_delivers {s t : State} (h : step s = .next t) : DeliversCleanly s.results t.results := by
  cases step_taken h with
  | reset rest inputs eq => exact .nothing (eq ▸ rfl)
  | stays eq => exact .nothing (eq ▸ rfl)
  | executed w operands rest i inputs seq decoded answer =>
    exact exec_delivers (s := { s with inputs := rest }) (decodeCommand_hostIssuable decoded) answer
  | rejected w operands rest inputs seq eq => exact .error .illegalCommand (eq ▸ rfl)
  | microOp waiting seq round => exact microStep_delivers round

/-- Settles O43: what a step delivers, by the way it is taken. -/
theorem errorsDeliverNoBytes : Obligations.ErrorsDeliverNoBytes :=
  fun _ _ _ hstep hr hst => (step_delivers hstep).out_eq_nil hr hst

end Sys2Proof.Machine
end

section
/-! PROOFS. NEW (40_construction): what its checks refuse, what the one call of a NEW that passes them leaves, and how a
NEW ends. -/

namespace Sys2Proof.Machine

/-! ## The checks -/

theorem newOperands_wrongTag {tag : Bytes} (key iv : Bytes) (h : tag ≠ Config.algTag) :
    newOperands tag key iv = .error .unsupportedAlgorithm := by
  simp [newOperands, h]

theorem newOperands_wrongKeyLength {key : Bytes} (iv : Bytes) (h : key.length ≠ 32) :
    newOperands Config.algTag key iv = .error .invalidKeyLength := by
  simp [newOperands, Config.keyLen, h]

theorem newOperands_wrongNonceLength {key iv : Bytes} (hk : key.length = 32) (h : iv.length ≠ 8) :
    newOperands Config.algTag key iv = .error .invalidNonceLength := by
  simp [newOperands, Config.keyLen, Config.ivLen, hk, h]

/-- A refused NEW adds its result to a state between commands, and nothing else. -/
theorem State.Idle.exec_new_refused {s : State} (hs : s.Idle) {tag key iv : Bytes} {status : Status}
    (h : newOperands tag key iv = .error status) (dir : Direction) :
    exec (.new dir tag key iv) s = .next { s with results := s.results ++ [⟨status, []⟩] } := by
  have hnew : newCommand Config.hardware tag key iv s = s.accept.raise status false := by simp only [newCommand, h]
  rw [exec_new, hnew, hs.accept_raise]

/-! ## The first call -/

/-- What a NEW with legal operands makes of a state between commands, by the answer to its one call. The nonce of that
call is the IV itself (20_memory R51). -/
theorem State.Idle.newCommand_legal {c : Config} {s : State} (hs : s.Idle) {key iv : Bytes} (hk : key.length = 32)
    (hv : iv.length = 8) :
    (s.answerAt c 0 = .returns c.blockSize ∧ newCommand c Config.algTag key iv s =
      { s with
        inst := s.inst.built c ⟨key, hk⟩ (fromLe64 iv), results := s.results ++ [⟨.ok, []⟩]
        requests := s.requests ++ [⟨c.blockSize, iv, key⟩], answers := s.answers.drop 1 }) ∨
    (s.CallFails c 0 ∧ newCommand c Config.algTag key iv s =
      { s with
        results := s.results ++ [⟨.keystreamGenerationFailure, []⟩]
        requests := s.requests ++ [⟨c.blockSize, iv, key⟩], answers := s.answers.drop 1 }) ∨
    (s.answerAt c 0 = .never ∧
      (newCommand c Config.algTag key iv s).requests = s.requests ++ [⟨c.blockSize, iv, key⟩]) := by
  have hrequest : (s.accept.loadSeed ⟨key, hk⟩ (fromLe64 iv)).request c = ⟨c.blockSize, iv, key⟩ := by
    simp [State.request, le64_fromLe64 hv]
  rcases newCommand_cases c Config.algTag key iv s with ⟨_, _, hok, _⟩ | ⟨k, seed, hok, hcall⟩ <;>
    rw [newOperands_ok hk hv] at hok <;> cases hok
  rcases hcall with ⟨ha, e⟩ | ⟨hf, e⟩ | ⟨hn, e⟩
  · refine .inl ⟨ha, e.trans ?_⟩
    simp [State.constructed, State.deliver, Instance.built, hrequest, hs.seq, hs.rem, hs.outacc, hs.snap, hs.waiting]
  · refine .inr (.inl ⟨hf, e.trans ?_⟩)
    simp [State.raise, State.deliver, hrequest, hs.seq, hs.rem, hs.outacc, hs.snap, hs.waiting]
  · exact .inr (.inr ⟨hn, by rw [e, State.called_requests, hrequest]; rfl⟩)

/-! ## The obligations -/

/-- Settles O14: the registers that a successful NEW leaves are all written. -/
theorem newConstructsTheInstance : Obligations.NewConstructsTheInstance := by
  intro s dir key iv hk hs hv ha
  rw [exec_new]
  rcases hs.newCommand_legal hk hv with ⟨_, e⟩ | ⟨hf, _⟩ | ⟨hn, _⟩
  · rw [e]
    rfl
  · exact absurd ha hf.ne_returns
  · cases ha.symm.trans hn

/-- Settles O15, check by check. -/
theorem newChecksItsOperandsInOrder : Obligations.NewChecksItsOperandsInOrder := by
  intro s dir tag key iv hs
  refine ⟨fun ht => ?_, fun ht hk => ?_, fun ht hk hv => ?_, fun ht hk hv => ?_⟩
  · exact hs.exec_new_refused (newOperands_wrongTag key iv ht) dir
  · subst ht
    exact hs.exec_new_refused (newOperands_wrongKeyLength iv hk) dir
  · subst ht
    exact hs.exec_new_refused (newOperands_wrongNonceLength hk hv) dir
  · subst ht
    refine ⟨_, exec_new .., ?_⟩
    rcases hs.newCommand_legal (c := Config.hardware) hk hv with ⟨_, e⟩ | ⟨_, e⟩ | ⟨_, e⟩
    · exact congrArg State.requests e
    · exact congrArg State.requests e
    · exact e

/-- Settles O16: the registers are those of the acceptance. -/
theorem newPropagatesThePrimitivesFailure : Obligations.NewPropagatesThePrimitivesFailure := by
  intro s dir key iv hs hk hv hf
  rw [exec_new]
  rcases hs.newCommand_legal hk hv with ⟨ha, _⟩ | ⟨_, e⟩ | ⟨hn, _⟩
  · exact absurd ha hf.ne_returns
  · rw [e]
  · exact absurd hn hf.ne_never

/-- Settles O17, from the ways a NEW can end. -/
theorem failedNewChangesNothing : Obligations.FailedNewChangesNothing := by
  intro s t dir tag key iv ht hw
  rw [exec_new] at ht
  cases ht
  cases newCommand_outcome Config.hardware tag key iv s with
  | error status notOk idle inst results => exact .inr ⟨status, notOk, results, inst⟩
  | built k bytes idle inst results => exact .inl results
  | waits k waiting seq snap inst results => cases hw.symm.trans waiting

/-- Settles O18: NEW runs one command whatever its direction. -/
theorem directionHasNoEffect : Obligations.DirectionHasNoEffect := by
  intro s d₁ d₂ tag key iv
  rw [exec_new, exec_new]

end Sys2Proof.Machine
end

section
/-! PROOFS. REFILL (41_refill): what a good answer writes (R121 to R123, R127). -/

namespace Sys2Proof.Machine

theorem counter_succ_eq_ofNat (ctr : Counter) : ctr + 1 = BitVec.ofNat 64 ((ctr.toNat + 1) % 2 ^ 64) := by
  apply BitVec.eq_of_toNat_eq
  simp [BitVec.toNat_add]

/-- Settles O20: the answered REFILL, and CTR counted up as R123 writes it. -/
theorem refillLoadsTheNextBlock : Obligations.RefillLoadsTheNextBlock := by
  intro s ha
  rw [exec_refill, State.refill_good true ha, ← counter_succ_eq_ofNat]
  simp [State.called, State.request, Instance.loadBlock, blockOf, ha]

theorem exec_refill_ksbuf {s t : State} (ha : s.answerAt Config.hardware 0 = .returns Config.hardware.blockSize)
    (h : exec .refill s = .next t) : t.inst.ksbuf = blockOf Config.hardware s.inst.ctr s.inst.key := by
  rw [exec_refill, State.refill_good true ha] at h
  cases h
  rfl

/-- Settles O22: both buffers hold the block of the one CTR and KEY. -/
theorem refillIsDeterministic : Obligations.RefillIsDeterministic := by
  intro s₁ s₂ t₁ t₂ hctr hkey ha₁ ha₂ ht₁ ht₂
  rw [exec_refill_ksbuf ha₁ ht₁, exec_refill_ksbuf ha₂ ht₂, hctr, hkey]
  exact ⟨rfl, blockOf_length ..⟩

end Sys2Proof.Machine
end

section
/-! PROOFS. The registers after bytes consumed in several parts, and what fixes the registers after NEW (10_state R37,
42_update R149). -/

namespace Sys2Proof.Machine

/-- Registers are equal when each of them is (10_state R20). -/
@[ext] theorem Instance.ext {r₁ r₂ : Instance} (valid : r₁.valid = r₂.valid) (failed : r₁.failed = r₂.failed)
    (key : r₁.key = r₂.key) (ctr : r₁.ctr = r₂.ctr) (ksbuf : r₁.ksbuf = r₂.ksbuf)
    (cursor : r₁.cursor = r₂.cursor) : r₁ = r₂ := by
  cases r₁
  cases r₂
  congr

theorem Instance.afterBytes_zero {c : Config} {r : Instance} (hc : r.cursor < c.blockSize) :
    r.afterBytes c 0 = r := by
  simp [Instance.afterBytes, Instance.boundaries, Nat.div_eq_of_lt hc, Nat.mod_eq_of_lt hc]

/-- The boundaries of `m + n` bytes are those of the first `m` and those of the next `n`. -/
theorem Instance.boundaries_add {c : Config} (hB : 0 < c.blockSize) (r : Instance) (m n : Nat) :
    r.boundaries c (m + n) = r.boundaries c m + (r.afterBytes c m).boundaries c n := by
  have hsum : r.cursor + (m + n) = (r.cursor + m) % c.blockSize + n + c.blockSize * ((r.cursor + m) / c.blockSize) := by
    have := Nat.mod_add_div (r.cursor + m) c.blockSize
    omega
  simp only [Instance.boundaries, Instance.afterBytes_cursor]
  rw [hsum, Nat.add_mul_div_left _ _ hB, Nat.add_comm]

/-- The registers after `m` bytes and then `n` are those after `m + n`. -/
theorem Instance.afterBytes_afterBytes {c : Config} (hB : 0 < c.blockSize) (r : Instance) (m n : Nat) :
    (r.afterBytes c m).afterBytes c n = r.afterBytes c (m + n) := by
  have hk := r.boundaries_add hB m n
  refine Instance.ext rfl rfl rfl ?_ ?_ ?_
  · simp only [Instance.afterBytes_ctr, hk, BitVec.ofNat_add, add_assoc]
  · simp only [Instance.afterBytes_ksbuf, hk]
    by_cases hn : (r.afterBytes c m).boundaries c n = 0
    · simp [hn]
    · simp [hn, Nat.add_sub_assoc (Nat.pos_of_ne_zero hn), BitVec.ofNat_add, add_assoc]
  · simp [Nat.add_assoc]

/-- The count of consumed bytes, the seed, KEY and FAILED fix the registers: CURSOR by the count modulo `B`, CTR and KSBUF
by the seed and the blocks consumed (10_state R37). -/
theorem Instance.Tracks.inst_eq {c : Config} {seed₁ seed₂ : Counter} {n₁ n₂ : Nat} {r₁ r₂ : Instance}
    (h₁ : r₁.Tracks c seed₁ n₁) (h₂ : r₂.Tracks c seed₂ n₂) (hfailed : r₁.failed = r₂.failed) (hkey : r₁.key = r₂.key)
    (hmod : n₁ % c.blockSize = n₂ % c.blockSize)
    (hblock : seed₁ + BitVec.ofNat 64 (n₁ / c.blockSize) = seed₂ + BitVec.ofNat 64 (n₂ / c.blockSize)) : r₁ = r₂ := by
  refine Instance.ext (h₁.valid.trans h₂.valid.symm) hfailed hkey ?_ ?_ ?_
  · rw [h₁.ctr, h₂.ctr, add_right_comm, hblock, add_right_comm]
  · rw [h₁.ksbuf, h₂.ksbuf, hblock, hkey]
  · rw [h₁.cursor, h₂.cursor, hmod]

/-- Instances built with the same key agree where their seeds and their counts name the same byte of the same block. -/
theorem Instance.built_afterBytes_eq {c : Config} (hB : 0 < c.blockSize) {key : Key} {seed₁ seed₂ : Counter}
    {n₁ n₂ : Nat} (r₁ r₂ : Instance) (hmod : n₁ % c.blockSize = n₂ % c.blockSize)
    (hblock : seed₁ + BitVec.ofNat 64 (n₁ / c.blockSize) = seed₂ + BitVec.ofNat 64 (n₂ / c.blockSize)) :
    (r₁.built c key seed₁).afterBytes c n₁ = (r₂.built c key seed₂).afterBytes c n₂ := by
  have h₁ := (r₁.built_tracks c key seed₁).afterBytes hB n₁
  have h₂ := (r₂.built_tracks c key seed₂).afterBytes hB n₂
  rw [Nat.zero_add] at h₁ h₂
  exact h₁.inst_eq h₂ rfl rfl hmod hblock

end Sys2Proof.Machine
end

section
/-! PROOFS. What UPDATEs, and a NEW and the UPDATEs after it, leave when no call fails (42_update R149), and when two
instances come to the same keystream (41_refill R128, 70_reset_and_hazards R235). -/

namespace Sys2Proof.Machine

/-! ## An UPDATE whose calls are all answered -/

/-- What an UPDATE of `data` leaves if its calls are all answered (42_update R149). -/
def State.updated (c : Config) (data : Bytes) (s : State) : State :=
  State.deliver .ok (xorBytes data ((s.inst.upcoming c (s.inst.boundaries c data.length)).take data.length))
    { s.afterCalls c (s.inst.boundaries c data.length) with inst := s.inst.afterBytes c data.length }

@[simp] theorem State.updated_inst (c : Config) (data : Bytes) (s : State) :
    (s.updated c data).inst = s.inst.afterBytes c data.length := rfl

/-- The answers to come are those after the UPDATE's calls. -/
theorem State.answerAt_updated (c : Config) (data : Bytes) (s : State) (j : Nat) :
    (s.updated c data).answerAt c j = s.answerAt c (s.inst.boundaries c data.length + j) :=
  State.answerAt_after (s := s) (t := s.updated c data) rfl rfl (by simp [State.updated, State.afterCalls]) j

/-- The one-step form of an UPDATE that succeeds, for empty data too. -/
theorem updateCommand_good {c : Config} {s : State} {data : Bytes} (hL : s.inst.Live) (hz : s.inst.Sized c)
    (hc : s.inst.cursor < c.blockSize) (ha : s.AnswersGood c (s.inst.boundaries c data.length)) :
    updateCommand c data s = .next (s.updated c data) := by
  by_cases hd : data = []
  · subst hd
    have hk : s.inst.boundaries c 0 = 0 := Nat.div_eq_of_lt hc
    rw [updateCommand_empty hL, State.updated, List.length_nil, Instance.afterBytes_zero hc, hk]
    simp [State.deliver, State.accept, State.afterCalls, xorBytes]
  · rw [updateCommand_loop hL hd]
    exact runSequencer_good _ (s.startUpdate data) _ (State.startUpdate_combining hc hd) hz.ksbuf rfl ha le_rfl

/-! ## UPDATEs in turn -/

/-- UPDATEs whose calls are all answered leave the registers of the bytes they were given together. -/
theorem feed_good_inst {pieces : List Bytes} : ∀ {s : State}, s.inst.Live → s.inst.Sized Config.hardware →
    s.inst.cursor < Config.hardware.blockSize →
    s.AnswersGood Config.hardware (s.inst.boundaries Config.hardware pieces.flatten.length) →
    ∃ t, feed pieces s = .next t ∧ t.inst = s.inst.afterBytes Config.hardware pieces.flatten.length := by
  induction pieces with
  | nil =>
    intro s _ _ hc _
    exact ⟨s, rfl, (Instance.afterBytes_zero hc).symm⟩
  | cons piece pieces ih =>
    intro s hL hz hc ha
    rw [List.flatten_cons, List.length_append] at ha ⊢
    rw [Instance.boundaries_add hardware_blockSize_pos] at ha
    have hu := updateCommand_good hL hz hc fun j hj => ha j (Nat.lt_add_right _ hj)
    obtain ⟨t, ht, hinst⟩ := ih (s := s.updated Config.hardware piece) ⟨hL.valid, hL.failed⟩
      (hz.afterBytes hardware_blockSize_pos piece.length) (Nat.mod_lt _ hardware_blockSize_pos)
      fun j hj => (State.answerAt_updated ..).trans (ha _ (Nat.add_lt_add_left hj _))
    refine ⟨t, ?_, hinst.trans (Instance.afterBytes_afterBytes hardware_blockSize_pos ..)⟩
    rw [feed, exec_update, hu]
    exact ht

/-! ## A NEW and the UPDATEs after it -/

/-- A NEW whose call is answered takes that answer and builds the registers. -/
theorem State.Idle.newCommand_good {c : Config} {s : State} (hs : s.Idle) {key iv : Bytes} (hk : key.length = 32)
    (hv : iv.length = 8) (ha : s.answerAt c 0 = .returns c.blockSize) :
    (newCommand c Config.algTag key iv s).inst = s.inst.built c ⟨key, hk⟩ (fromLe64 iv) ∧
      ∀ j, (newCommand c Config.algTag key iv s).answerAt c j = s.answerAt c (1 + j) := by
  rcases hs.newCommand_legal hk hv with ⟨_, e⟩ | ⟨hf, _⟩ | ⟨hn, _⟩
  · rw [e]
    exact ⟨rfl, State.answerAt_after rfl rfl (by simp)⟩
  · exact absurd ha hf.ne_returns
  · cases ha.symm.trans hn

theorem Instance.built_boundaries (c : Config) (key : Key) (seed : Counter) (r : Instance) (n : Nat) :
    (r.built c key seed).boundaries c n = n / c.blockSize := by
  simp [Instance.boundaries, Instance.built]

/-- A NEW and the UPDATEs after it, no call failing, leave the registers that NEW builds after the bytes of all the
UPDATEs. -/
theorem State.Idle.new_feed_good {s : State} (hs : s.Idle) {key iv : Bytes} (hk : key.length = 32)
    (hv : iv.length = 8) (dir : Direction) (pieces : List Bytes)
    (ha : s.AnswersGood Config.hardware (1 + pieces.flatten.length / Config.hardware.blockSize)) :
    ∃ e t, exec (.new dir Config.algTag key iv) s = .next e ∧ feed pieces e = .next t ∧
      t.inst = (s.inst.built Config.hardware ⟨key, hk⟩ (fromLe64 iv)).afterBytes Config.hardware
        pieces.flatten.length := by
  obtain ⟨hinst, hanswers⟩ := hs.newCommand_good hk hv (ha 0 (Nat.add_pos_left Nat.one_pos _))
  have hrest := s.inst.built_atRest hardware_blockSize_pos ⟨key, hk⟩ (fromLe64 iv)
  rw [exec_new, ← hinst]
  rw [← hinst] at hrest
  obtain ⟨t, ht, htinst⟩ := feed_good_inst (pieces := pieces) (hinst ▸ ⟨rfl, rfl⟩) hrest.sized
    (hrest.cursor (hinst ▸ rfl)) fun j hj => by
      rw [hinst, Instance.built_boundaries] at hj
      rw [hanswers]
      exact ha _ (Nat.add_lt_add_left hj 1)
  exact ⟨_, t, rfl, ht, htinst⟩

/-- After 2^64 blocks CTR is where it was (10_state R23). -/
theorem counter_ofNat_wrap (k : Nat) : BitVec.ofNat 64 (k + 2 ^ 64) = BitVec.ofNat 64 k := by
  simp [BitVec.ofNat_add]

/-- Settles O47: 2^64 blocks more leave the counter as it is, and a block more counts it up by the one that the other
seed is ahead. -/
theorem keystreamRepeats : Obligations.KeystreamRepeats := by
  intro s₁ s₂ d₁ d₂ key iv₁ iv₂ pieces₁ pieces₂ n₁ n₂ hs₁ hs₂ hk hv₁ hv₂ hn₁ hn₂ ha₁ ha₂
  subst hn₁ hn₂
  obtain ⟨e₁, t₁, hnew₁, hfeed₁, hinst₁⟩ := hs₁.new_feed_good hk hv₁ d₁ pieces₁ ha₁
  obtain ⟨e₂, t₂, hnew₂, hfeed₂, hinst₂⟩ := hs₂.new_feed_good hk hv₂ d₂ pieces₂ ha₂
  refine ⟨e₁, t₁, e₂, t₂, hnew₁, hfeed₁, hnew₂, hfeed₂, fun hiv hn => ?_, fun hseed hn => ?_⟩
  · rw [hinst₁, hinst₂, hn, hiv]
    refine Instance.built_afterBytes_eq hardware_blockSize_pos _ _ (Nat.add_mul_mod_self_right ..).symm ?_
    rw [Nat.add_mul_div_right _ _ hardware_blockSize_pos, counter_ofNat_wrap]
  · rw [hinst₁, hinst₂, hn, hseed]
    refine Instance.built_afterBytes_eq hardware_blockSize_pos _ _ (Nat.add_mod_right ..) ?_
    rw [Nat.add_div_right _ hardware_blockSize_pos, counter_succ_add]

end Sys2Proof.Machine
end

section
/-! PROOFS. UPDATE in one step: its closed form when its calls are all answered, and its error when one of them fails
(42_update R146, R149, R151). -/

namespace Sys2Proof.Machine

/-! ## An UPDATE that succeeds -/

/-- The output of an UPDATE of `data`: the data XOR the keystream from the cursor on (R149). -/
def Instance.output (c : Config) (r : Instance) (data : Bytes) : Bytes :=
  xorBytes data ((r.upcoming c (r.boundaries c data.length)).take data.length)

/-- Between commands, the state that an UPDATE leaves differs in the registers, the calls and the one result. -/
theorem State.Idle.updated_eq {c : Config} {s : State} (hs : s.Idle) (data : Bytes) :
    s.updated c data =
      { s.afterCalls c (s.inst.boundaries c data.length) with
        inst := s.inst.afterBytes c data.length, results := s.results ++ [⟨.ok, s.inst.output c data⟩] } := by
  obtain ⟨hseq, hrem, houtacc, hsnap, hwaiting⟩ := hs
  simp [State.updated, State.deliver, State.afterCalls, Instance.output, hseq, hrem, houtacc, hsnap, hwaiting]

/-! ## An UPDATE one of whose calls fails -/

/-- What an error leaves is fixed by SNAP and the interfaces (60_exceptions R205). -/
theorem State.raise_congr {s t : State} {r : Instance} (hs : s.snap = some r) (ht : t.snap = some r)
    (inputs : s.inputs = t.inputs) (results : s.results = t.results) (requests : s.requests = t.requests)
    (answers : s.answers = t.answers) (engine : s.engine = t.engine) (status : Status) (f : Bool) :
    s.raise status f = t.raise status f := by
  simp [State.raise, State.deliver, hs, ht, inputs, results, requests, answers, engine]

/-- A run that reaches two block boundaries has data left after the first. -/
theorem State.lt_of_two_le_boundaries {c : Config} {s : State} (hB : 0 < c.blockSize)
    (h : 2 ≤ s.inst.boundaries c s.rem.length) : c.blockSize < s.inst.cursor + s.rem.length := by
  have := (Nat.le_div_iff_mul_le hB).mp h
  omega

/-- A run whose call number `m` is the first to fail makes no later call (42_update R146). -/
theorem runSequencer_fails {c : Config} (m : Nat) : ∀ {s : State} {n : Nat} {r : Instance}, s.Combining c →
    s.snap = some r → m < s.inst.boundaries c s.rem.length → s.AnswersGood c m → s.CallFails c m →
    2 * s.rem.length ≤ n →
    runSequencer c n s = .next ((s.afterCalls c (m + 1)).raise .keystreamGenerationFailure true) := by
  induction m with
  | zero =>
    intro s n r hC hs hm ha hf hn
    have hp := hC.rem_pos
    have hb : c.blockSize ≤ s.inst.cursor + s.rem.length := by
      by_contra hh
      exact absurd (State.boundaries_zero (not_le.mp hh)) hm.ne'
    obtain ⟨n, rfl⟩ : ∃ l, n = l + 2 := ⟨n - 2, by omega⟩
    rw [runSequencer_failed n hC hb hf, State.raise_congr (s := (s.atBlockEnd c).called c) (t := s.afterCalls c 1)
      hs hs rfl rfl ((List.append_nil _).symm.trans (State.requests_succ c s 0)) rfl rfl]
  | succ m ih =>
    intro s n r hC hs hm ha hf hn
    have hp := hC.rem_pos
    have hc := hC.cursor
    have hb := State.lt_of_two_le_boundaries (Nat.zero_lt_of_lt hc) (by omega : 2 ≤ s.inst.boundaries c s.rem.length)
    have hlen := State.nextBlock_rem_length hb.le
    have hk := State.boundaries_succ hc hb.le
    have ha0 := ha 0 m.succ_pos
    obtain ⟨n, rfl⟩ : ∃ l, n = l + 2 := ⟨n - 2, by omega⟩
    rw [runSequencer_block n hC hb ha0, ih (State.nextBlock_combining hC hb ha0) hs (by omega)
      (fun j hj => by rw [State.answerAt_nextBlock]; exact ha _ (by omega)) (State.callFails_succ.mpr hf) (by omega),
      State.raise_congr (s := (s.nextBlock c).afterCalls c (m + 1)) (t := s.afterCalls c (m + 1 + 1)) hs hs rfl rfl
        (State.requests_succ c s (m + 1)) (by simp [State.afterCalls, State.nextBlock, State.atBlockEnd, Nat.add_comm])
        rfl]

/-- The one-step form of an UPDATE whose call number `m` is the first to fail. -/
theorem State.Idle.updateCommand_fails {c : Config} {s : State} (hs : s.Idle) {data : Bytes} {m : Nat}
    (hL : s.inst.Live) (hc : s.inst.cursor < c.blockSize) (hm : m < s.inst.boundaries c data.length)
    (ha : s.AnswersGood c m) (hf : s.CallFails c m) :
    updateCommand c data s = .next
      { s.afterCalls c (m + 1) with
        inst := s.inst.markFailed, results := s.results ++ [⟨.keystreamGenerationFailure, []⟩] } := by
  have hd : data ≠ [] := by
    rintro rfl
    exact absurd (Nat.div_eq_of_lt hc) hm.ne_bot
  have hrun := runSequencer_fails m (State.startUpdate_combining hc hd) (s := s.startUpdate data) rfl hm ha hf le_rfl
  obtain ⟨hseq, hrem, houtacc, hsnap, hwaiting⟩ := hs
  rw [updateCommand_loop hL hd]
  refine hrun.trans ?_
  simp [State.raise, State.deliver, State.afterCalls, State.startUpdate, State.accept,
    hseq, hrem, houtacc, hsnap, hwaiting]

/-! ## The obligations -/

/-- Settles O30: by induction on the blocks, up to the last one (`runSequencer_good`) or to the failing call
(`runSequencer_fails`). -/
theorem updateOneStepForm : Obligations.UpdateOneStepForm := by
  intro s data k hs hL hz hc _ hk
  subst hk
  refine ⟨fun ha => ?_, fun m hm ha hf => ?_⟩
  · rw [exec_update, updateCommand_good hL hz hc ha, hs.updated_eq]
    rfl
  · exact hs.updateCommand_fails hL hc hm ha hf

/-- Settles O32: the case of the one-step form with one boundary, at the last byte. -/
theorem exactFillRefillsOnce : Obligations.ExactFillRefillsOnce := by
  intro s data hs hL hz hc hlen ha
  have hend : s.inst.cursor + data.length = Config.hardware.blockSize := by omega
  have hk : s.inst.boundaries Config.hardware data.length = 1 := by
    rw [Instance.boundaries, hend, Nat.div_self hardware_blockSize_pos]
  have hdrop : (s.inst.ksbuf.drop s.inst.cursor).length = data.length := by rw [List.length_drop, hz.ksbuf, hlen]
  have hout : s.inst.output Config.hardware data = xorBytes data (s.inst.ksbuf.drop s.inst.cursor) := by
    rw [Instance.output, hk, Instance.upcoming, List.take_left' hdrop]
  rw [exec_update, updateCommand_good hL hz hc (by rw [hk]; intro j hj; rwa [Nat.lt_one_iff.mp hj]), hs.updated_eq,
    hk, hout]
  simp [State.afterCalls, Instance.requestsFor, Instance.afterBytes, hk, hend, blockOf]

end Sys2Proof.Machine
end

section
/-! PROOFS. The same data in several UPDATEs or in one (42_update R150), and the outputs fed back to registers that
are built alike (R152). -/

namespace Sys2Proof.Machine

/-! ## The keystream ahead -/

theorem Instance.upcoming_zero (c : Config) (r : Instance) : r.upcoming c 0 = r.ksbuf.drop r.cursor := by
  simp [Instance.upcoming]

/-- The keystream of `k + m` blocks: that of the first `k`, then `m` blocks from the counter that has counted them. -/
theorem Instance.upcoming_add (c : Config) (r : Instance) (k m : Nat) :
    r.upcoming c (k + m) = r.upcoming c k ++
      (List.range m).flatMap fun j => blockOf c (r.ctr + BitVec.ofNat 64 k + BitVec.ofNat 64 j) r.key := by
  simp only [Instance.upcoming, List.range_add, List.flatMap_append, List.flatMap_map, BitVec.ofNat_add, add_assoc,
    List.append_assoc]

/-- The keystream up to the block in which `n` bytes end is longer than `n`. -/
theorem Instance.le_upcoming_length {c : Config} {r : Instance} (hz : r.Sized c) (hc : r.cursor < c.blockSize)
    (n : Nat) : n ≤ (r.upcoming c (r.boundaries c n)).length := by
  have hmod := Nat.mod_lt (r.cursor + n) (Nat.zero_lt_of_lt hc)
  have hdiv := Nat.div_add_mod' (r.cursor + n) c.blockSize
  rw [Instance.upcoming_length _ hz.ksbuf, Instance.boundaries]
  omega

/-- What `n` bytes leave of the keystream of their own blocks is the rest of the block in the buffer. -/
theorem Instance.drop_upcoming_boundaries {c : Config} {r : Instance} (hz : r.Sized c) (hc : r.cursor < c.blockSize)
    (n : Nat) : (r.upcoming c (r.boundaries c n)).drop n = (r.afterBytes c n).upcoming c 0 := by
  have hdiv := Nat.div_add_mod' (r.cursor + n) c.blockSize
  rw [Instance.upcoming_zero, Instance.afterBytes_ksbuf, Instance.afterBytes_cursor]
  cases hk : r.boundaries c n with
  | zero =>
    rw [Instance.boundaries] at hk
    rw [Instance.upcoming_zero, List.drop_drop, if_pos rfl, ← hdiv, hk]
    simp
  | succ k =>
    have hn : n = (r.upcoming c k).length + (r.cursor + n) % c.blockSize := by
      rw [Instance.boundaries] at hk
      rw [hk, Nat.succ_mul] at hdiv
      rw [Instance.upcoming_length k hz.ksbuf]
      omega
    rw [if_neg k.succ_ne_zero, Instance.upcoming_add]
    conv_lhs => rw [hn, List.drop_length_add_append]
    simp

/-- The keystream ahead after `n` bytes is what they leave of it. -/
theorem Instance.drop_upcoming {c : Config} {r : Instance} (hz : r.Sized c) (hc : r.cursor < c.blockSize)
    (n m : Nat) : (r.upcoming c (r.boundaries c n + m)).drop n = (r.afterBytes c n).upcoming c m := by
  rw [Instance.upcoming_add, List.drop_append_of_le_length (Instance.le_upcoming_length hz hc n),
    Instance.drop_upcoming_boundaries hz hc, ← Nat.zero_add m, Instance.upcoming_add, Nat.zero_add]
  simp

/-! ## Outputs -/

theorem Instance.output_length {c : Config} {r : Instance} (hz : r.Sized c) (hc : r.cursor < c.blockSize)
    (data : Bytes) : (r.output c data).length = data.length := by
  simp [Instance.output, Instance.le_upcoming_length hz hc]

/-- The output for two strings in one: each has the output it has by itself, in turn. -/
theorem Instance.output_append {c : Config} {r : Instance} (hz : r.Sized c) (hc : r.cursor < c.blockSize)
    (d₁ d₂ : Bytes) : r.output c (d₁ ++ d₂) = r.output c d₁ ++ (r.afterBytes c d₁.length).output c d₂ := by
  have hle := Instance.le_upcoming_length hz hc d₁.length
  rw [Instance.output, List.length_append, List.take_add, Instance.boundaries_add (Nat.zero_lt_of_lt hc),
    Instance.drop_upcoming hz hc, xorBytes_append, Instance.upcoming_add, List.take_append_of_le_length hle]
  · rfl
  · rw [Instance.upcoming_add, List.take_append_of_le_length hle, List.length_take_of_le hle]

/-- XOR with the same keystream twice gives the data back. -/
theorem xorBytes_xorBytes_cancel : ∀ {d k : Bytes}, d.length ≤ k.length → xorBytes (xorBytes d k) k = d
  | [], _, _ => rfl
  | a :: d, b :: k, h => by
    have ih := xorBytes_xorBytes_cancel (d := d) (k := k) (Nat.le_of_succ_le_succ h)
    simp only [xorBytes, List.zipWith_cons_cons] at ih ⊢
    rw [ih, BitVec.xor_assoc, BitVec.xor_self, BitVec.xor_zero]

theorem Instance.output_output {c : Config} {r : Instance} (hz : r.Sized c) (hc : r.cursor < c.blockSize)
    (data : Bytes) : r.output c (r.output c data) = data := by
  have hle := Instance.le_upcoming_length hz hc data.length
  rw [Instance.output, Instance.output_length hz hc]
  exact xorBytes_xorBytes_cancel (by simp [hle])

/-- The outputs of UPDATEs of the pieces in turn, when no call fails. -/
def Instance.outputs (c : Config) : Instance → List Bytes → List Bytes
  | _, [] => []
  | r, piece :: pieces => r.output c piece :: (r.afterBytes c piece.length).outputs c pieces

/-- Outputs do not depend on how the data are split. -/
theorem Instance.flatten_outputs {c : Config} {pieces : List Bytes} : ∀ {r : Instance}, r.Sized c →
    r.cursor < c.blockSize → (r.outputs c pieces).flatten = r.output c pieces.flatten := by
  induction pieces with
  | nil => exact fun _ _ => rfl
  | cons piece pieces ih =>
    intro r hz hc
    have hB := Nat.zero_lt_of_lt hc
    rw [Instance.outputs, List.flatten_cons, List.flatten_cons, Instance.output_append hz hc,
      ih (hz.afterBytes hB piece.length) (Nat.mod_lt _ hB)]

/-- Outputs have their pieces' lengths together. -/
theorem Instance.flatten_outputs_length {c : Config} {r : Instance} (hz : r.Sized c) (hc : r.cursor < c.blockSize)
    (pieces : List Bytes) : (r.outputs c pieces).flatten.length = pieces.flatten.length := by
  rw [Instance.flatten_outputs hz hc, Instance.output_length hz hc]

/-- The outputs of the outputs are the pieces. -/
theorem Instance.outputs_outputs {c : Config} {pieces : List Bytes} : ∀ {r : Instance}, r.Sized c →
    r.cursor < c.blockSize → r.outputs c (r.outputs c pieces) = pieces := by
  induction pieces with
  | nil => exact fun _ _ => rfl
  | cons piece pieces ih =>
    intro r hz hc
    have hB := Nat.zero_lt_of_lt hc
    rw [Instance.outputs, Instance.outputs, Instance.output_output hz hc, Instance.output_length hz hc,
      ih (hz.afterBytes hB piece.length) (Nat.mod_lt _ hB)]

/-! ## UPDATEs in turn, from a state between commands -/

/-- What UPDATEs of the pieces in turn leave of a state between commands, if no call fails. -/
def State.fed (c : Config) (pieces : List Bytes) (s : State) : State :=
  { s.afterCalls c (s.inst.boundaries c pieces.flatten.length) with
    inst := s.inst.afterBytes c pieces.flatten.length
    results := s.results ++ (s.inst.outputs c pieces).map (Result.mk .ok) }

@[simp] theorem State.fed_inst (c : Config) (pieces : List Bytes) (s : State) :
    (s.fed c pieces).inst = s.inst.afterBytes c pieces.flatten.length := rfl

theorem State.Idle.fed {s : State} (hs : s.Idle) (c : Config) (pieces : List Bytes) : (s.fed c pieces).Idle :=
  ⟨hs.seq, hs.rem, hs.outacc, hs.snap, hs.waiting⟩

theorem State.outputsSince_fed (c : Config) (pieces : List Bytes) (s : State) :
    outputsSince s (s.fed c pieces) = s.inst.outputs c pieces := by
  simp [outputsSince, State.fed, Function.comp_def]

theorem State.fed_nil {c : Config} {s : State} (hc : s.inst.cursor < c.blockSize) : s.fed c [] = s := by
  have hk : s.inst.boundaries c 0 = 0 := Nat.div_eq_of_lt hc
  simp [State.fed, State.afterCalls, Instance.outputs, Instance.afterBytes_zero hc, hk]

theorem State.fed_cons {c : Config} {s : State} (hB : 0 < c.blockSize) (piece : Bytes) (pieces : List Bytes) :
    (s.fed c [piece]).fed c pieces = s.fed c (piece :: pieces) := by
  have hreq := fun n => Instance.requestsFor_append (c := c) (r := s.inst) (u := s.inst.afterBytes c piece.length) n
    rfl rfl
  simp [State.fed, State.afterCalls, Instance.outputs, Instance.afterBytes_afterBytes hB, Instance.boundaries_add hB,
    hreq]

/-- The answers to come are those after the calls. -/
theorem State.answerAt_fed (c : Config) (pieces : List Bytes) (s : State) (j : Nat) :
    (s.fed c pieces).answerAt c j = s.answerAt c (s.inst.boundaries c pieces.flatten.length + j) :=
  State.answerAt_after (s := s) (t := s.fed c pieces) rfl rfl (by simp [State.fed, State.afterCalls]) j

theorem State.Idle.updateCommand_good {c : Config} {s : State} (hs : s.Idle) {data : Bytes} (hL : s.inst.Live)
    (hz : s.inst.Sized c) (hc : s.inst.cursor < c.blockSize)
    (ha : s.AnswersGood c (s.inst.boundaries c data.length)) :
    updateCommand c data s = .next (s.fed c [data]) := by
  rw [Machine.updateCommand_good hL hz hc ha, hs.updated_eq]
  simp [State.fed, Instance.outputs]

/-- The closed form of UPDATEs in turn, no call failing. -/
theorem State.Idle.feed_good {pieces : List Bytes} : ∀ {s : State}, s.Idle → s.inst.Live →
    s.inst.Sized Config.hardware → s.inst.cursor < Config.hardware.blockSize →
    s.AnswersGood Config.hardware (s.inst.boundaries Config.hardware pieces.flatten.length) →
    feed pieces s = .next (s.fed Config.hardware pieces) := by
  induction pieces with
  | nil =>
    intro s _ _ _ hc _
    rw [feed, State.fed_nil hc]
  | cons piece pieces ih =>
    intro s hs hL hz hc ha
    have hB := hardware_blockSize_pos
    rw [List.flatten_cons, List.length_append, Instance.boundaries_add hB] at ha
    have hu := hs.updateCommand_good hL hz hc fun j hj => ha j (Nat.lt_add_right _ hj)
    have hpiece : [piece].flatten = piece := List.append_nil piece
    rw [feed, exec_update, hu, ← State.fed_cons hB piece pieces]
    refine ih (hs.fed ..) ⟨hL.valid, hL.failed⟩ (hz.afterBytes hB _) (Nat.mod_lt _ hB) fun j hj => ?_
    rw [State.fed_inst, hpiece] at hj
    rw [State.answerAt_fed, hpiece]
    exact ha _ (Nat.add_lt_add_left hj _)

/-! ## A NEW and the UPDATEs after it -/

theorem State.Idle.newCommand_idle {c : Config} {s : State} (hs : s.Idle) {key iv : Bytes} (hk : key.length = 32)
    (hv : iv.length = 8) (ha : s.answerAt c 0 = .returns c.blockSize) :
    (newCommand c Config.algTag key iv s).Idle := by
  rcases hs.newCommand_legal hk hv with ⟨_, e⟩ | ⟨hf, _⟩ | ⟨hn, _⟩
  · rw [e]
    exact ⟨hs.seq, hs.rem, hs.outacc, hs.snap, hs.waiting⟩
  · exact absurd ha hf.ne_returns
  · cases ha.symm.trans hn

/-- A NEW and the UPDATEs after it, no call failing: the registers that NEW builds, and what the pieces make of them. -/
theorem State.Idle.new_feed_fed {s : State} (hs : s.Idle) {key iv : Bytes} (hk : key.length = 32)
    (hv : iv.length = 8) (dir : Direction) (pieces : List Bytes)
    (ha : s.AnswersGood Config.hardware (1 + pieces.flatten.length / Config.hardware.blockSize)) :
    ∃ e, exec (.new dir Config.algTag key iv) s = .next e ∧
      e.inst = s.inst.built Config.hardware ⟨key, hk⟩ (fromLe64 iv) ∧
      feed pieces e = .next (e.fed Config.hardware pieces) := by
  have ha0 := ha 0 (Nat.add_pos_left Nat.one_pos _)
  obtain ⟨hinst, hanswers⟩ := hs.newCommand_good hk hv ha0
  have hidle := hs.newCommand_idle hk hv ha0
  have hrest := s.inst.built_atRest hardware_blockSize_pos ⟨key, hk⟩ (fromLe64 iv)
  refine ⟨_, exec_new .., hinst, hidle.feed_good (hinst ▸ ⟨rfl, rfl⟩) (hinst ▸ hrest.sized)
    (hinst ▸ hrest.cursor rfl) fun j hj => ?_⟩
  rw [hinst, Instance.built_boundaries] at hj
  rw [hanswers]
  exact ha _ (Nat.add_lt_add_left hj 1)

/-! ## The obligations -/

/-- Settles O33: the pieces and the whole come to the same number of bytes, and to the same output by
`Instance.flatten_outputs`. -/
theorem chunkInvariance : Obligations.ChunkInvariance := by
  intro s pieces hs hL hz hc ha
  refine ⟨_, _, hs.feed_good hL hz hc ha, hs.updateCommand_good hL hz hc ha, ?_, ?_⟩
  · rw [State.outputsSince_fed, State.outputsSince_fed, Instance.flatten_outputs hz hc, Instance.flatten_outputs hz hc]
    simp
  · simp [State.fed, State.afterCalls]

/-- Settles O34: NEW's registers do not depend on what was there, and from the same registers the outputs of the outputs
are the pieces. -/
theorem roundTripReturnsThePlaintext : Obligations.RoundTripReturnsThePlaintext := by
  intro s₁ s₂ d₁ d₂ key iv pieces hs₁ hs₂ hk hv ha₁ ha₂
  obtain ⟨e₁, hnew₁, hinst₁, hfeed₁⟩ := hs₁.new_feed_fed hk hv d₁ pieces ha₁
  have hrest := s₁.inst.built_atRest hardware_blockSize_pos ⟨key, hk⟩ (fromLe64 iv)
  rw [← hinst₁] at hrest
  have hz := hrest.sized
  have hc := hrest.cursor (hinst₁ ▸ rfl)
  have hlen := Instance.flatten_outputs_length hz hc pieces
  obtain ⟨e₂, hnew₂, hinst₂, hfeed₂⟩ := hs₂.new_feed_fed hk hv d₂ (e₁.inst.outputs Config.hardware pieces)
    (hlen.symm ▸ ha₂)
  have hinst : e₂.inst = e₁.inst := hinst₂.trans hinst₁.symm
  refine ⟨e₁, _, e₂, _, hnew₁, hfeed₁, hnew₂, by rw [State.outputsSince_fed]; exact hfeed₂, ?_, ?_⟩
  · rw [State.outputsSince_fed, hinst, Instance.outputs_outputs hz hc]
  · rw [State.fed_inst, State.fed_inst, hinst, hlen]

end Sys2Proof.Machine
end

section
/-! PROOFS. UPDATE as the sequencer's own steps: the machine's run is the loop (42_update R140, R144), its rounds are
counted (R147), and each step follows its row of R144's table. -/

namespace Sys2Proof.Machine

/-! ## The machine's run is the loop -/

@[simp] theorem State.advance_inputs (c : Config) (s : State) : (s.advance c).inputs = s.inputs := by
  unfold State.advance State.finish
  split_ifs <;> rfl

theorem microStep_inputs {c : Config} {s t : State} (h : microStep c s = .next t) : t.inputs = s.inputs := by
  unfold microStep at h
  split at h
  · obtain ⟨u, hu, rfl⟩ := sequenced_eq_next h
    rw [State.advance_inputs, combineOp_eq_next hu, State.combineChunk_inputs]
  · split at h
    · cases h
      rw [State.advance_inputs, (State.growsTo_refill c true s).inputs]
    · cases h

theorem State.noReset_of_inputs_eq_nil {s : State} (h : s.inputs = []) : s.NoReset := fun rest h' => by
  cases h.symm.trans h'

theorem runSequencer_fault {c : Config} {s : State} {f : Fault} {n : Nat} (hw : s.waiting = false)
    (hs : s.seq ≠ Seq.idle) (hm : microStep c s = .fault f) : runSequencer c (n + 1) s = .fault f := by
  simp [runSequencer, hw, hs, hm]

theorem runSequencer_refused {c : Config} {s : State} {r : Refusal} {n : Nat} (hw : s.waiting = false)
    (hs : s.seq ≠ Seq.idle) (hm : microStep c s = .refused r) : runSequencer c (n + 1) s = .refused r := by
  simp [runSequencer, hw, hs, hm]

/-- With no input the machine's steps are the rounds of the loop: both stand still between commands and while the
primitive does not answer, and both stop with a fault. -/
theorem core_run_eq_runSequencer (n : Nat) : ∀ {s : State}, s.inputs = [] →
    Sys2Proof.core.run n s = runSequencer Config.hardware n s := by
  induction n with
  | zero => exact fun _ => rfl
  | succ n ih =>
    intro s hi
    have hr := State.noReset_of_inputs_eq_nil hi
    cases hw : s.waiting with
    | true => rw [core_run_next n (step_waiting hr hw), ih hi, runSequencer_waiting n hw, runSequencer_waiting _ hw]
    | false =>
      by_cases hs : s.seq = Seq.idle
      · rw [core_run_next n (step_noInput hi hs), ih hi, runSequencer_idle n hs, runSequencer_idle _ hs]
      · have hstep := step_microStep hr hw hs
        cases hm : microStep Config.hardware s with
        | next t =>
          rw [core_run_next n (hstep.trans hm), ih ((microStep_inputs hm).trans hi), runSequencer_step hw hs hm]
        | fault f => exact (core_run_fault n (hstep.trans hm)).trans (runSequencer_fault hw hs hm).symm
        | refused r => exact (core_run_refused n (hstep.trans hm)).trans (runSequencer_refused hw hs hm).symm

/-- Settles O35: `exec` of UPDATE is the loop, and the loop is the machine's run. -/
theorem updateIsTheSequencersRun : Obligations.UpdateIsTheSequencersRun := by
  intro s data hL hi hd
  rw [exec_update, updateCommand_loop hL hd]
  exact core_run_eq_runSequencer _ hi

/-! ## The rounds of a run -/

/-- The rounds of a run: two for each block boundary, and one for the bytes after the last (R147). -/
def State.roundCount (c : Config) (s : State) : Nat :=
  2 * s.inst.boundaries c s.rem.length + if (s.inst.cursor + s.rem.length) % c.blockSize = 0 then 0 else 1

theorem State.roundCount_short {c : Config} {s : State} (h : s.Combining c)
    (hb : s.inst.cursor + s.rem.length < c.blockSize) : s.roundCount c = 1 := by
  have hp := h.rem_pos
  rw [State.roundCount, State.boundaries_zero hb, Nat.mod_eq_of_lt hb, if_neg (by omega)]

theorem State.roundCount_succ {c : Config} {s : State} (h : s.Combining c)
    (hb : c.blockSize ≤ s.inst.cursor + s.rem.length) : s.roundCount c = (s.nextBlock c).roundCount c + 2 := by
  have hmod : ((s.nextBlock c).inst.cursor + (s.nextBlock c).rem.length) % c.blockSize =
      (s.inst.cursor + s.rem.length) % c.blockSize := by
    rw [State.nextBlock_inst_cursor, State.nextBlock_rem_length hb, Nat.zero_add]
    exact (boundary_succ h.cursor hb).2.symm
  rw [State.roundCount, State.roundCount, State.boundaries_succ h.cursor hb, hmod]
  omega

theorem State.roundCount_exact {c : Config} {s : State} (h : s.Combining c)
    (hb : s.inst.cursor + s.rem.length = c.blockSize) : s.roundCount c = 2 := by
  have hB := Nat.zero_lt_of_lt h.cursor
  rw [State.roundCount, Instance.boundaries, hb, Nat.div_self hB, Nat.mod_self]
  rfl

/-- Every COMBINE takes a byte at least (R147). -/
theorem State.Combining.chunkLength_pos {c : Config} {s : State} (h : s.Combining c) : 1 ≤ s.chunkLength c :=
  Nat.le_min.mpr ⟨Nat.sub_pos_of_lt h.cursor, h.rem_pos⟩

/-- The rounds of a run from `s` whose calls are all answered: a COMBINE that takes a byte, a REFILL, and so on to the
end after the counted rounds, within the loop's bound. -/
structure State.RoundsCounted (c : Config) (s : State) : Prop where
  combines : ∀ j, 2 * j < s.roundCount c →
    ∃ t, runSequencer c (2 * j) s = .next t ∧ t.seq = Seq.combine ∧ 1 ≤ t.chunkLength c
  refills : ∀ j < s.inst.boundaries c s.rem.length,
    ∃ t, runSequencer c (2 * j + 1) s = .next t ∧ t.seq = Seq.refill
  ends : ∃ t, t.Idle ∧ ∀ n ≥ s.roundCount c, runSequencer c n s = .next t
  bounded : s.roundCount c ≤ 2 * s.rem.length

theorem State.Combining.firstRefill {c : Config} {s : State} (h : s.Combining c)
    (hb : c.blockSize ≤ s.inst.cursor + s.rem.length) : runSequencer c 1 s = .next (s.atBlockEnd c) :=
  runSequencer_step h.waiting (by simp [h.seq]) (microStep_combine_full h hb)

theorem State.Combining.roundsCounted_short {c : Config} {s : State} (h : s.Combining c)
    (hb : s.inst.cursor + s.rem.length < c.blockSize) : s.RoundsCounted c := by
  have hm := State.roundCount_short h hb
  have hp := h.rem_pos
  refine ⟨fun j hj => ?_, fun j hj => ?_, ⟨(s.combineChunk c).finish, State.finish_idle _, fun n hn => ?_⟩, by omega⟩
  · obtain rfl : j = 0 := by omega
    exact ⟨s, rfl, h.seq, h.chunkLength_pos⟩
  · rw [State.boundaries_zero hb] at hj
    exact absurd hj j.not_lt_zero
  · obtain ⟨n, rfl⟩ : ∃ l, n = l + 1 := ⟨n - 1, by omega⟩
    exact runSequencer_short n h hb

theorem State.Combining.roundsCounted_exact {c : Config} {s : State} (h : s.Combining c)
    (hb : s.inst.cursor + s.rem.length = c.blockSize) (ha : s.answerAt c 0 = .returns c.blockSize) :
    s.RoundsCounted c := by
  have hm := State.roundCount_exact h hb
  have hp := h.rem_pos
  refine ⟨fun j hj => ?_, fun j hj => ?_, ⟨(s.nextBlock c).finish, State.finish_idle _, fun n hn => ?_⟩, by omega⟩
  · obtain rfl : j = 0 := by omega
    exact ⟨s, rfl, h.seq, h.chunkLength_pos⟩
  · obtain rfl : j = 0 := by
      have : 2 * s.inst.boundaries c s.rem.length ≤ s.roundCount c := Nat.le_add_right ..
      omega
    exact ⟨_, h.firstRefill hb.ge, rfl⟩
  · obtain ⟨n, rfl⟩ : ∃ l, n = l + 2 := ⟨n - 2, by omega⟩
    exact runSequencer_exact n h hb ha

/-- The rounds of the first block, and then those from the next block on. -/
theorem State.Combining.roundsCounted_block {c : Config} {s : State} (h : s.Combining c)
    (hb : c.blockSize < s.inst.cursor + s.rem.length) (ha : s.answerAt c 0 = .returns c.blockSize)
    (ih : (s.nextBlock c).RoundsCounted c) : s.RoundsCounted c := by
  have hm := State.roundCount_succ h hb.le
  have hk := State.boundaries_succ h.cursor hb.le
  have hlen := State.nextBlock_rem_length hb.le
  have hc := h.cursor
  have hnext := fun n => runSequencer_block n h hb ha
  obtain ⟨combines, refills, ⟨t, idle, run⟩, bounded⟩ := ih
  refine ⟨fun j hj => ?_, fun j hj => ?_, ⟨t, idle, fun n hn => ?_⟩, by omega⟩
  · cases j with
    | zero => exact ⟨s, rfl, h.seq, h.chunkLength_pos⟩
    | succ j => exact hnext (2 * j) ▸ combines j (by omega)
  · cases j with
    | zero => exact ⟨_, h.firstRefill hb.le, rfl⟩
    | succ j => exact hnext (2 * j + 1) ▸ refills j (by omega)
  · obtain ⟨n, rfl⟩ : ∃ l, n = l + 2 := ⟨n - 2, by omega⟩
    exact (hnext n).trans (run n (by omega))

/-- By induction over the blocks. -/
theorem State.Combining.roundsCounted {c : Config} {s : State} (h : s.Combining c) :
    s.AnswersGood c (s.inst.boundaries c s.rem.length) → s.RoundsCounted c := by
  refine Combining_induction
    (P := fun s => s.AnswersGood c (s.inst.boundaries c s.rem.length) → s.RoundsCounted c) ?_ ?_ ?_ ?_ ?_ s h
  · exact fun s hC hb _ => hC.roundsCounted_short hb
  · exact fun s hC hb ha _ => hC.roundsCounted_exact hb ha
  · intro s hC hb ha ih hg
    refine hC.roundsCounted_block hb ha (ih fun j hj => ?_)
    rw [State.answerAt_nextBlock]
    exact hg _ (by rw [State.boundaries_succ hC.cursor hb.le]; omega)
  · exact fun s hC hb hf hg => absurd (hg 0 (State.boundaries_pos hC.cursor hb)) hf.ne_returns
  · intro s hC hb hn hg
    cases hn.symm.trans (hg 0 (State.boundaries_pos hC.cursor hb))

/-- Settles O36: the rounds of the loop, which are the machine's steps. -/
theorem sequencerRoundsAreCounted : Obligations.SequencerRoundsAreCounted := by
  intro s data k m hL hz hc hi hd hk ha hm
  subst hk
  obtain rfl : m = (s.startUpdate data).roundCount Config.hardware := hm
  have hrun := fun n => core_run_eq_runSequencer n (s := s.startUpdate data) hi
  obtain ⟨combines, refills, ⟨t, idle, run⟩, bounded⟩ := (State.startUpdate_combining hc hd).roundsCounted ha
  refine ⟨fun j hj => ?_, fun j hj => ?_, t, ?_, ?_, idle⟩
  · rw [hrun]
    exact combines j hj
  · rw [hrun]
    exact refills j hj
  · rw [hrun]
    exact run _ le_rfl
  · rw [exec_update, updateCommand_loop hL hd]
    exact run _ bounded

/-! ## The rows of the table -/

/-- A step inside a command is `exec` of the micro-operation that SEQ names, and the transition after it. -/
theorem step_microOp {s : State} {i : Instr} (hr : s.NoReset) (hw : s.waiting = false)
    (hd : decodeUop s.seq = .ok i) : step s = sequenced Config.hardware (exec i s) := by
  rcases decodeUop_eq_ok.mp hd with ⟨hs, rfl⟩ | ⟨hs, rfl⟩
  · rw [step_microStep hr hw (by simp [hs]), microStep, if_pos hs, exec_combine]
  · rw [step_microStep hr hw (by simp [hs]), microStep_refill hs, exec_refill]
    rfl

/-- Settles O8. -/
theorem stepRunsTheMicroOperation : Obligations.StepRunsTheMicroOperation := by
  intro s i hr hw hd
  rw [step_microOp hr hw hd]
  cases exec i s <;> rfl

/-- Settles O37: a COMBINE by whether the data reach the end of the block, a REFILL by its answer. -/
theorem sequencerFollowsItsTable : Obligations.SequencerFollowsItsTable := by
  intro s hU hw hr
  rcases hU.next with ⟨hs, _⟩ | ⟨hs, _⟩
  · have hC := hU.combining hw hs
    have hc := hC.cursor
    rw [step_microStep hr hw (by simp [hs])]
    rcases Nat.lt_or_ge (s.inst.cursor + s.rem.length) Config.hardware.blockSize with hb | hb
    · refine ⟨_, microStep_combine_end hC hb, ?_⟩
      simp [hs, hb, hb.not_ge, State.deliver_idle, State.finish, State.chunkLength_all hb.le]
    · refine ⟨_, microStep_combine_full hC hb, ?_⟩
      have hcur : s.inst.cursor + (Config.hardware.blockSize - s.inst.cursor) = Config.hardware.blockSize := by omega
      simp [hs, hb, hb.not_gt, State.atBlockEnd, State.chunkLength_full hb, hcur]
  · rw [step_microStep hr hw (by simp [hs]), microStep_refill hs]
    refine ⟨_, rfl, ?_⟩
    rcases s.answer_cases Config.hardware 0 with ha | hf | hn
    · rw [State.advance_refilled hs ha]
      have hnf : ¬ s.CallFails Config.hardware 0 := fun hf => hf.ne_returns ha
      by_cases hrem : s.rem = []
      · simp [hs, ha, hrem, hnf, State.deliver_idle, State.finish]
      · simp [hs, ha, hrem, hnf]
    · rw [State.refill_failed true hf, State.advance_raise]
      simp [hs, hf, hf.ne_returns, State.raise_idle]
    · have hnf : ¬ s.CallFails Config.hardware 0 := fun hf => hf.ne_never hn
      simp [hs, hn, hnf]

end Sys2Proof.Machine
end

section
/-! PROOFS. UPDATE's checks (42_update R141 to R143), the length of its output (R148), and a REFILL that fails inside it
(R146). -/

namespace Sys2Proof.Machine

/-- Settles O27: the first check's error leaves a state between commands as it was. -/
theorem updateWithoutInstance : Obligations.UpdateWithoutInstance := by
  intro s data hs hv
  rw [exec_update, updateCommand_noInstance data hv, hs.accept_raise]

/-- Settles O28: so does the second check's. -/
theorem updateOnAFailedInstance : Obligations.UpdateOnAFailedInstance := by
  intro s data hs hv hf
  rw [exec_update, updateCommand_failed data hv hf, hs.accept_raise]

/-- Settles O29: so does a result with no data. -/
theorem emptyUpdateChangesNothing : Obligations.EmptyUpdateChangesNothing := by
  intro s hs hL
  rw [exec_update, updateCommand_empty hL, hs.accept_deliver]

/-- Settles O31: of the ways an UPDATE can end, empty data and a run that is done deliver OK. -/
theorem updateKeepsTheLength : Obligations.UpdateKeepsTheLength := by
  intro s t data out hz h hres
  rw [exec_update] at h
  rcases updateCommand_cases Config.hardware data s with
    ⟨_, e⟩ | ⟨_, _, e⟩ | ⟨_, rfl, e⟩ | ⟨_, _, _, e⟩ | ⟨_, _, _, u, e, hends⟩ <;> rw [e] at h <;> cases h
  · cases deliveredStatus_unique rfl hres
  · cases deliveredStatus_unique rfl hres
  · cases deliveredResult_unique (a := ⟨.ok, []⟩) rfl hres
    rfl
  · rcases hends.ends with
      ⟨_, _, _, _, out', hres', hlen⟩ | ⟨_, _, _, _, ⟨_, _, _, hres'⟩ | ⟨_, _, _, _, _, hres'⟩⟩
    · cases deliveredResult_unique hres' hres
      exact hlen hz.ksbuf
    · cases deliveredStatus_unique hres' hres
    · exact absurd hres (results_ne_append hres' _)

/-- Settles O21: the error of the failed call, with the registers that SNAP holds. -/
theorem refillFailureRestoresTheRegisters : Obligations.RefillFailureRestoresTheRegisters := by
  intro s r hs hf
  rw [exec_refill, State.refill_failed true hf]
  simp [State.raise, State.deliver, State.called, State.request, Instance.markFailed, hs]

end Sys2Proof.Machine
end

section
/-! PROOFS. The combine unit: the XOR laws (43_combine R177), the wide path (R173), and what one COMBINE takes and gives
(R170 to R174). -/

namespace Sys2Proof.Machine

/-! ## The wide path -/

/-- A group of `n` bytes and the rest combined in turn are the whole combined. -/
theorem xorBytes_take_drop (n : Nat) {d k : Bytes} (h : d.length = k.length) :
    xorBytes (d.take n) (k.take n) ++ xorBytes (d.drop n) (k.drop n) = xorBytes d k := by
  rw [← xorBytes_append (by rw [List.length_take, List.length_take, h]), List.take_append_drop, List.take_append_drop]

/-- However many groups are combined at once, the bytes are those of the bytewise XOR. -/
theorem xorGroups_eq (w rounds : Nat) : ∀ {d k : Bytes}, d.length = k.length →
    xorGroups w rounds d k = xorBytes d k := by
  induction rounds with
  | zero => exact fun _ => rfl
  | succ rounds ih =>
    intro d k h
    have htake : (d.take w).length = (k.take w).length := by rw [List.length_take, List.length_take, h]
    have hdrop : (d.drop w).length = (k.drop w).length := by rw [List.length_drop, List.length_drop, h]
    rw [xorGroups, xorGroup_eq _ _ htake, ih hdrop, xorBytes_take_drop w h, ite_self]

theorem xorLanes_eq (w : Nat) {d k : Bytes} (h : d.length = k.length) : xorLanes w d k = xorBytes d k :=
  xorGroups_eq w d.length h

theorem xorAccelerated_eq {d k : Bytes} (h : d.length = k.length) : xorAccelerated d k = xorBytes d k := by
  rw [xorAccelerated, xorLanes_eq 4 h, xorLanes_eq 2 h, ite_self, ite_self]

/-- Settles O26, by induction on the groups: one group at once is the bytewise XOR of the group (`xorGroup_eq`). -/
theorem laneWidthHasNoEffect : Obligations.LaneWidthHasNoEffect :=
  fun _ _ h => ⟨fun w _ => xorLanes_eq w h, xorAccelerated_eq h⟩

/-! ## The XOR laws -/

/-- XOR with a repeated byte acts on every byte by itself. -/
theorem xorBytes_replicate (d : Bytes) (a : Byte) : xorBytes d (List.replicate d.length a) = d.map (· ^^^ a) := by
  induction d with
  | nil => rfl
  | cons b d ih =>
    simpa [xorBytes, List.replicate_succ] using ih

theorem xorBytes_comm (d k : Bytes) : xorBytes d k = xorBytes k d :=
  List.zipWith_comm_of_comm BitVec.xor_comm

/-- Settles O25: XOR with a repeated byte is `xorBytes_replicate`, and self-inverse is `xorBytes_xorBytes_cancel`. -/
theorem xorLaws : Obligations.XorLaws := by
  refine ⟨fun d => ?_, fun d => ?_, fun d k h => xorBytes_xorBytes_cancel h.le, xorBytes_comm, fun d => ?_⟩
  · rw [xorBytes_replicate]
    simp
  · simp [xorBytes, List.zipWith_self, List.map_const']
  · have hcompl (b : Byte) : b ^^^ 0xFF = ~~~b := BitVec.xor_allOnes
    rw [xorBytes_replicate, funext hcompl]

/-! ## One COMBINE -/

theorem combineOp_next {c : Config} {s : State} (hc : s.inst.cursor < c.blockSize) :
    combineOp c s = .next (s.combineChunk c) := if_pos hc

/-- COMBINE completes from a CURSOR inside the block only (60_exceptions R208). -/
theorem cursor_lt_of_combineOp_eq_next {c : Config} {s t : State} (h : combineOp c s = .next t) :
    s.inst.cursor < c.blockSize := by
  unfold combineOp at h
  split at h
  · assumption
  · cases h

/-- Settles O23: the writes of COMBINE are those of R170. -/
theorem combineTakesOneChunk : Obligations.CombineTakesOneChunk := by
  intro s n hc hn
  subst hn
  exact combineOp_next hc

theorem State.chunkLength_le_block (c : Config) (s : State) : s.chunkLength c ≤ c.blockSize - s.inst.cursor :=
  Nat.min_le_left ..

theorem State.chunkLength_le_rem (c : Config) (s : State) : s.chunkLength c ≤ s.rem.length := Nat.min_le_right ..

/-- A read that stays inside the block gives as many bytes as it asks for. -/
theorem Instance.Sized.ksRead_length {c : Config} {r : Instance} (hz : r.Sized c) {n : Nat}
    (hn : n ≤ c.blockSize - r.cursor) : (r.ksRead r.cursor n).length = n := by
  rw [Instance.ksRead, List.length_take, List.length_drop, hz.ksbuf, Nat.min_eq_left hn]

theorem Instance.ksRead_getD (r : Instance) (p : Nat) {n i : Nat} (hi : i < n) :
    (r.ksRead p n).getD i 0 = r.ksbuf.getD (p + i) 0 := by
  simp [Instance.ksRead, List.getD_eq_getElem?_getD, List.getElem?_take_of_lt hi]

/-- Byte `i` of an XOR is the XOR of the bytes of index `i` (43_combine R174). -/
theorem xorBytes_getD {d k : Bytes} {i : Nat} (hd : i < d.length) (hk : i < k.length) :
    (xorBytes d k).getD i 0 = d.getD i 0 ^^^ k.getD i 0 := by
  simp [xorBytes, List.getD_eq_getElem?_getD, hd, hk]

/-- The output of a COMBINE grows by the bytes it takes. -/
theorem State.combineChunk_outacc_length {c : Config} {s : State} (hz : s.inst.Sized c) :
    (s.combineChunk c).outacc.length = s.outacc.length + s.chunkLength c := by
  simp [hz.ksRead_length (s.chunkLength_le_block c), s.chunkLength_le_rem c]

/-- Output byte `i` of a COMBINE pairs data byte `i` with the keystream byte `i` from CURSOR on (43_combine R171). -/
theorem State.combineChunk_outacc_getD {c : Config} {s : State} (hz : s.inst.Sized c) {i : Nat}
    (hi : i < s.chunkLength c) :
    (s.combineChunk c).outacc.getD (s.outacc.length + i) 0 =
      s.rem.getD i 0 ^^^ s.inst.ksbuf.getD (s.inst.cursor + i) 0 := by
  have htake : (s.rem.take (s.chunkLength c)).getD i 0 = s.rem.getD i 0 := by
    simp [List.getD_eq_getElem?_getD, List.getElem?_take_of_lt hi]
  rw [State.combineChunk_outacc, List.getD_append_right _ _ _ _ (Nat.le_add_right ..), Nat.add_sub_cancel_left,
    xorBytes_getD, htake, Instance.ksRead_getD _ _ hi]
  · rwa [List.length_take_of_le (s.chunkLength_le_rem c)]
  · rwa [hz.ksRead_length (s.chunkLength_le_block c)]

/-- Settles O24: the chunk is not empty and ends inside the block, and `State.combineChunk_outacc_getD` pairs its
bytes. -/
theorem combinePairsBytesInOrder : Obligations.CombinePairsBytesInOrder := by
  intro s t hz hrem h
  rw [exec_combine] at h
  have hcursor := cursor_lt_of_combineOp_eq_next h
  obtain rfl := combineOp_eq_next h
  have hpos : 1 ≤ s.chunkLength Config.hardware :=
    Nat.le_min.mpr ⟨Nat.sub_pos_of_lt hcursor, List.length_pos_iff.mpr hrem⟩
  refine ⟨s.chunkLength Config.hardware, hpos, s.chunkLength_le_block _, rfl, (State.sized_combineChunk hz).cursor,
    State.combineChunk_outacc_length hz, List.prefix_append .., fun i hi b _ => ?_⟩
  rw [State.combineChunk_outacc_getD hz hi, BitVec.getLsbD_xor]

end Sys2Proof.Machine
end

section
/-! PROOFS. UPDATEs of the same length from the same state: the registers and the calls they leave do not depend on the
data, and their outputs differ as the data do (10_state R36, 43_combine R176). -/

namespace Sys2Proof.Machine

/-! ## The registers and the calls -/

@[simp] theorem State.answerAt_startUpdate (c : Config) (data : Bytes) (s : State) (j : Nat) :
    (s.startUpdate data).answerAt c j = s.answerAt c j := rfl
@[simp] theorem State.answersGood_startUpdate {c : Config} {data : Bytes} {s : State} {n : Nat} :
    (s.startUpdate data).AnswersGood c n ↔ s.AnswersGood c n := Iff.rfl
@[simp] theorem State.callFails_startUpdate {c : Config} {data : Bytes} {s : State} {j : Nat} :
    (s.startUpdate data).CallFails c j ↔ s.CallFails c j := Iff.rfl

/-- Good answers end at the first call that fails or is not answered. -/
theorem State.AnswersGood.le_of_stops {c : Config} {s : State} {n m : Nat} (h : s.AnswersGood c n)
    (hm : s.CallFails c m ∨ s.answerAt c m = .never) : n ≤ m := by
  by_contra hlt
  have hgood := h m (not_le.mp hlt)
  rcases hm with hf | hn
  · exact hf.ne_returns hgood
  · cases hgood.symm.trans hn

/-- Runs over as many bytes end alike: the answers, not the data, decide whether and at which call they stop. -/
theorem RunEnds.inst_requests_eq {c : Config} {r : Instance} {s t₁ t₂ : State} {d₁ d₂ : Bytes}
    (hlen : d₁.length = d₂.length) (h₁ : RunEnds c r (s.startUpdate d₁) t₁) (h₂ : RunEnds c r (s.startUpdate d₂) t₂) :
    t₁.inst = t₂.inst ∧ t₁.requests = t₂.requests := by
  obtain ⟨_, _, ends₁⟩ := h₁
  obtain ⟨_, _, ends₂⟩ := h₂
  simp only [State.startUpdate_inst, State.startUpdate_rem, hlen, State.answerAt_startUpdate,
    State.answersGood_startUpdate, State.callFails_startUpdate] at ends₁ ends₂
  rcases ends₁ with ⟨good₁, _, req₁, inst₁, _⟩ | ⟨m₁, lt₁, good₁, req₁, stop₁⟩ <;>
    rcases ends₂ with ⟨good₂, _, req₂, inst₂, _⟩ | ⟨m₂, lt₂, good₂, req₂, stop₂⟩
  · exact ⟨inst₁.trans inst₂.symm, req₁.trans req₂.symm⟩
  · exact absurd (good₁.le_of_stops (stop₂.imp And.left And.left)) lt₂.not_ge
  · exact absurd (good₂.le_of_stops (stop₁.imp And.left And.left)) lt₁.not_ge
  · obtain rfl : m₁ = m₂ := le_antisymm (good₁.le_of_stops (stop₂.imp And.left And.left))
      (good₂.le_of_stops (stop₁.imp And.left And.left))
    refine ⟨?_, req₁.trans req₂.symm⟩
    rcases stop₁ with ⟨fails₁, _, inst₁, _⟩ | ⟨never₁, _, _, _, inst₁, _⟩ <;>
      rcases stop₂ with ⟨fails₂, _, inst₂, _⟩ | ⟨never₂, _, _, _, inst₂, _⟩
    · exact inst₁.trans inst₂.symm
    · exact absurd never₂ fails₁.ne_never
    · exact absurd never₁ fails₂.ne_never
    · exact inst₁.trans inst₂.symm

/-- Past its checks an UPDATE of some data either faults or is a run from inside the block. -/
theorem updateCommand_runEnds {c : Config} {data : Bytes} {s t : State} (hL : s.inst.Live) (hd : data ≠ [])
    (h : updateCommand c data s = .next t) :
    s.inst.cursor < c.blockSize ∧ RunEnds c s.inst (s.startUpdate data) t := by
  rcases Nat.lt_or_ge s.inst.cursor c.blockSize with hc | hc
  · obtain ⟨u, hu, hends⟩ := runSequencer_ends s.inst (s.startUpdate data) (State.startUpdate_combining hc hd) rfl
      (2 * data.length) le_rfl
    rw [updateCommand_loop hL hd, hu] at h
    cases h
    exact ⟨hc, hends⟩
  · rw [updateCommand_atBlockEnd hL hd hc] at h
    cases h

/-- UPDATE's first two checks do not look at its data (42_update R141, R142). -/
theorem updateCommand_notLive (c : Config) {s : State} (h : ¬ s.inst.Live) (d₁ d₂ : Bytes) :
    updateCommand c d₁ s = updateCommand c d₂ s := by
  cases hv : s.inst.valid with
  | false => rw [updateCommand_noInstance d₁ hv, updateCommand_noInstance d₂ hv]
  | true =>
    have hf : s.inst.failed = true := by
      by_contra hf
      exact h ⟨hv, Bool.eq_false_of_not_eq_true hf⟩
    rw [updateCommand_failed d₁ hv hf, updateCommand_failed d₂ hv hf]

/-- The registers and the calls that an UPDATE leaves are those of any other data of the same length. -/
theorem updateCommand_inst_requests_eq {c : Config} {d₁ d₂ : Bytes} {s t₁ t₂ : State} (hlen : d₁.length = d₂.length)
    (h₁ : updateCommand c d₁ s = .next t₁) (h₂ : updateCommand c d₂ s = .next t₂) :
    t₁.inst = t₂.inst ∧ t₁.requests = t₂.requests := by
  by_cases hrun : s.inst.Live ∧ d₁ ≠ []
  · obtain ⟨hL, hd₁⟩ := hrun
    have hd₂ : d₂ ≠ [] := List.length_pos_iff.mp (hlen ▸ List.length_pos_iff.mpr hd₁)
    obtain ⟨_, ends₁⟩ := updateCommand_runEnds hL hd₁ h₁
    obtain ⟨_, ends₂⟩ := updateCommand_runEnds hL hd₂ h₂
    exact ends₁.inst_requests_eq hlen ends₂
  · have heq : updateCommand c d₁ s = updateCommand c d₂ s := by
      by_cases hL : s.inst.Live
      · obtain rfl : d₁ = [] := not_not.mp fun hd => hrun ⟨hL, hd⟩
        rw [List.eq_nil_of_length_eq_zero hlen.symm]
      · exact updateCommand_notLive c hL d₁ d₂
    cases h₁.symm.trans (heq.trans h₂)
    exact ⟨rfl, rfl⟩

/-! ## The outputs -/

/-- Under the same keystream two strings differ as they did. -/
theorem xorBytes_xorBytes_common : ∀ {d₁ d₂ k : Bytes}, d₁.length ≤ k.length →
    xorBytes (xorBytes d₁ k) (xorBytes d₂ k) = xorBytes d₁ d₂
  | [], _, _, _ => rfl
  | _ :: _, [], _, _ => by simp [xorBytes]
  | a :: d₁, b :: d₂, x :: k, h => by
    have ih := xorBytes_xorBytes_common (d₁ := d₁) (d₂ := d₂) (k := k) (Nat.le_of_succ_le_succ h)
    have hbyte : a ^^^ x ^^^ (b ^^^ x) = a ^^^ b := by
      rw [BitVec.xor_comm b, BitVec.xor_assoc, ← BitVec.xor_assoc x, BitVec.xor_self, BitVec.zero_xor]
    simp only [xorBytes, List.zipWith_cons_cons] at ih ⊢
    rw [ih, hbyte]

/-- An UPDATE that delivers OK had no data, or took them from inside the block, and its output is that of the one-step
form. -/
theorem updateCommand_ok_output {c : Config} {data out : Bytes} {s t : State} (hz : s.inst.Sized c)
    (h : updateCommand c data s = .next t) (hres : t.results = s.results ++ [⟨.ok, out⟩]) :
    (data = [] ∨ s.inst.cursor < c.blockSize) ∧ out = s.inst.output c data := by
  rcases updateCommand_cases c data s with
    ⟨_, e⟩ | ⟨_, _, e⟩ | ⟨_, rfl, e⟩ | ⟨_, _, _, e⟩ | ⟨hL, _, hc, u, e, hends⟩
  · cases e.symm.trans h
    cases deliveredStatus_unique rfl hres
  · cases e.symm.trans h
    cases deliveredStatus_unique rfl hres
  · cases e.symm.trans h
    cases deliveredResult_unique (a := ⟨.ok, []⟩) rfl hres
    exact ⟨.inl rfl, rfl⟩
  · cases e.symm.trans h
  · cases e.symm.trans h
    rcases hends.ends with ⟨good, _⟩ | ⟨_, _, _, _, ⟨_, _, _, hres'⟩ | ⟨_, _, _, _, _, hres'⟩⟩
    · cases (updateCommand_good hL hz hc good).symm.trans h
      cases deliveredResult_unique (a := ⟨.ok, s.inst.output c data⟩) rfl hres
      exact ⟨.inr hc, rfl⟩
    · cases deliveredStatus_unique hres' hres
    · exact absurd hres (results_ne_append hres' _)

/-- Outputs over the same keystream differ as their data do. -/
theorem Instance.xorBytes_output_output {c : Config} {r : Instance} {d₁ d₂ : Bytes} (hz : r.Sized c)
    (hc : d₁ = [] ∨ r.cursor < c.blockSize) (hlen : d₁.length = d₂.length) :
    xorBytes (r.output c d₁) (r.output c d₂) = xorBytes d₁ d₂ := by
  rcases hc with rfl | hc
  · rfl
  · have hle := Instance.le_upcoming_length hz hc d₁.length
    rw [Instance.output, Instance.output, ← hlen]
    exact xorBytes_xorBytes_common (by rw [List.length_take_of_le hle])

/-- Settles O48: the registers and the calls by `updateCommand_inst_requests_eq`, the outputs by the one-step form, in
which both have the same keystream. -/
theorem updateOutputsDifferAsTheirData : Obligations.UpdateOutputsDifferAsTheirData := by
  intro s t₁ t₂ d₁ d₂ out₁ out₂ hz hlen h₁ h₂
  rw [exec_update] at h₁ h₂
  obtain ⟨hinst, hrequests⟩ := updateCommand_inst_requests_eq hlen h₁ h₂
  refine ⟨hinst, hrequests, fun hres₁ hres₂ => ?_⟩
  obtain ⟨hc, rfl⟩ := updateCommand_ok_output hz h₁ hres₁
  obtain ⟨_, rfl⟩ := updateCommand_ok_output hz h₂ hres₂
  exact Instance.xorBytes_output_output hz hc hlen

end Sys2Proof.Machine
end

section
/-! PROOFS. Illegal commands (60_exceptions R207), the one result of a presented command (R202), and the states in which
a step stops (R208). -/

namespace Sys2Proof.Machine

/-! ## The presented command -/

/-- What the host presents is no part of what stands between commands. -/
theorem State.Idle.withInputs {s : State} (h : s.Idle) (inputs : List Input) : State.Idle { s with inputs := inputs } :=
  ⟨h.seq, h.rem, h.outacc, h.snap, h.waiting⟩

/-- A word other than the three of R71, or another number of operands than its operation takes, has no meaning. -/
theorem decodeCommand_eq_error {w : CommandWord} {operands : List Bytes}
    (hnew : ¬ ((w = 0x00000001#32 ∨ w = 0x00000011#32) ∧ operands.length = 3))
    (hupdate : ¬ (w = 0x00000002#32 ∧ operands.length = 1)) :
    ∃ rejection, decodeCommand w operands = .error rejection := by
  cases hd : decodeCommand w operands with
  | error rejection => exact ⟨rejection, rfl⟩
  | ok i =>
    rcases decodeCommand_eq_ok.mp hd with ⟨tag, key, iv, hw, rfl, _⟩ | ⟨data, rfl, rfl, _⟩
    · have hword : w = 0x00000001#32 ∨ w = 0x00000011#32 := by
        rw [← CommandWord.masked_eq_one_iff.mp hw]
        cases Direction.ofBit w.dir with
        | encrypt => exact .inl rfl
        | decrypt => exact .inr rfl
      exact absurd ⟨hword, rfl⟩ hnew
    · exact absurd ⟨rfl, rfl⟩ hupdate

theorem State.Idle.step_rejected {s : State} (h : s.Idle) {w : CommandWord} {operands : List Bytes} {rest : List Input}
    (hi : s.inputs = .command w operands :: rest) {rejection : Rejection}
    (hd : decodeCommand w operands = .error rejection) :
    step s = .next (State.rejectCommand { s with inputs := rest }) := by
  rw [step_command hi h.waiting h.seq, hd]

/-- Settles O9: the decoder rejects the command, and its result is all that is delivered between commands. -/
theorem illegalCommandChangesNothing : Obligations.IllegalCommandChangesNothing := by
  intro s w operands rest hidle hinputs hnew hupdate
  obtain ⟨rejection, hd⟩ := decodeCommand_eq_error hnew hupdate
  rw [hidle.step_rejected hinputs hd, State.rejectCommand, (hidle.withInputs rest).deliver]

/-! ## One result per command -/

/-- With the results `rs` delivered before it, a command that leads to `t` either still waits for the primitive and has
delivered nothing, or has ended with one result. -/
inductive EndsOnce (rs : List Result) (t : State) : Prop where
  | waits (waiting : t.waiting = true) (results : t.results = rs)
  | ends (r : Result) (idle : t.Idle) (results : t.results = rs ++ [r])

theorem newCommand_endsOnce (c : Config) (tag key iv : Bytes) (s : State) :
    EndsOnce s.results (newCommand c tag key iv s) := by
  cases newCommand_outcome c tag key iv s with
  | error status notOk idle inst results => exact .ends _ idle results
  | built k bytes idle inst results => exact .ends _ idle results
  | waits k waiting seq snap inst results => exact .waits waiting results

theorem updateCommand_endsOnce {c : Config} {data : Bytes} {s t : State} (h : updateCommand c data s = .next t) :
    EndsOnce s.results t := by
  cases updateCommand_outcome h with
  | refused status notOk idle inst results => exact .ends _ idle results
  | empty noData idle inst results => exact .ends _ idle results
  | done out live cursor idle inst results => exact .ends _ idle results
  | failed live idle inst results => exact .ends _ idle results
  | waits m live waiting seq snap inst results => exact .waits waiting results

theorem exec_endsOnce {i : Instr} {s t : State} (hi : i.hostIssuable = true) (h : exec i s = .next t) :
    EndsOnce s.results t := by
  cases i with
  | new dir tag key iv =>
    rw [exec_new] at h
    cases h
    exact newCommand_endsOnce ..
  | update data => exact updateCommand_endsOnce h
  | combine => cases hi
  | refill => cases hi

/-- A step takes the presented command, and no other input. -/
theorem State.Idle.step_endsOnce {s t : State} (h : s.Idle) {w : CommandWord} {operands : List Bytes}
    {rest : List Input} (hi : s.inputs = .command w operands :: rest) (ht : step s = .next t) :
    t.inputs = rest ∧ EndsOnce s.results t := by
  cases hd : decodeCommand w operands with
  | error rejection =>
    rw [h.step_rejected hi hd] at ht
    cases ht
    exact ⟨rfl, .ends _ (State.deliver_idle ..) rfl⟩
  | ok i =>
    rw [stepRunsThePresentedCommand s w operands rest i h hi hd] at ht
    exact ⟨(State.growsTo_exec ht).inputs,
      exec_endsOnce (s := { s with inputs := rest }) (decodeCommand_hostIssuable hd) ht⟩

/-- Settles O41: the step takes the command, which waits or has ended with its one result. -/
theorem oneResultPerCommand : Obligations.OneResultPerCommand := by
  intro s t w operands rest hidle hinputs hstep
  obtain ⟨hrest, hends⟩ := hidle.step_endsOnce hinputs hstep
  refine ⟨hrest, ?_⟩
  cases hends with
  | waits waiting results => exact .inl ⟨waiting, results⟩
  | ends r idle results => exact .inr ⟨idle, r, results⟩

/-! ## The states that stop -/

theorem microStep_unused {c : Config} {s : State} (hc : s.seq ≠ Seq.combine) (hr : s.seq ≠ Seq.refill) :
    microStep c s = .fault .seqUnused := by
  rw [microStep, if_neg hc, if_neg hr]

theorem combineOp_atBlockEnd {c : Config} {s : State} (h : c.blockSize ≤ s.inst.cursor) :
    combineOp c s = .fault .combineAtBlockEnd :=
  if_neg h.not_gt

/-- On registers at rest an UPDATE that passes its checks starts inside the block (10_state R26), so it answers. -/
theorem updateCommand_answers {c : Config} {s : State} (h : s.inst.AtRest c) (data : Bytes) :
    ∃ t, updateCommand c data s = .next t := by
  rcases updateCommand_cases c data s with
    ⟨_, e⟩ | ⟨_, _, e⟩ | ⟨_, _, e⟩ | ⟨hL, _, hB, _⟩ | ⟨_, _, _, t, e, _⟩
  · exact ⟨_, e⟩
  · exact ⟨_, e⟩
  · exact ⟨_, e⟩
  · exact absurd (h.cursor hL.valid) hB.not_gt
  · exact ⟨t, e⟩

theorem exec_answers {i : Instr} {s : State} (hi : i.hostIssuable = true) (h : s.inst.AtRest Config.hardware) :
    ∃ t, exec i s = .next t := by
  cases i with
  | new dir tag key iv => exact ⟨_, exec_new dir tag key iv s⟩
  | update data => exact updateCommand_answers h data
  | combine => cases hi
  | refill => cases hi

theorem State.Idle.step_answers {s : State} (h : s.Idle) (hA : s.inst.AtRest Config.hardware) :
    ∃ t, step s = .next t := by
  match hi : s.inputs with
  | [] => exact ⟨s, step_noInput hi h.seq⟩
  | .reset :: rest => exact ⟨_, step_reset hi⟩
  | .command w operands :: rest =>
    cases hd : decodeCommand w operands with
    | error rejection => exact ⟨_, h.step_rejected hi hd⟩
    | ok i =>
      rw [stepRunsThePresentedCommand s w operands rest i h hi hd]
      exact exec_answers (s := { s with inputs := rest }) (decodeCommand_hostIssuable hd) hA

/-- Inside an UPDATE SEQ names a COMBINE inside the block, or a REFILL (42_update R145, R147). -/
theorem State.InUpdate.microStep_answers {c : Config} {s : State} (h : s.InUpdate c) (hw : s.waiting = false) :
    ∃ t, microStep c s = .next t := by
  rcases h.next with ⟨hs, _, _⟩ | ⟨hs, _⟩
  · have hC := h.combining hw hs
    rcases Nat.lt_or_ge (s.inst.cursor + s.rem.length) c.blockSize with hb | hb
    · exact ⟨_, microStep_combine_end hC hb⟩
    · exact ⟨_, microStep_combine_full hC hb⟩
  · exact ⟨_, microStep_refill hs⟩

theorem State.InUpdate.seq_ne_idle {c : Config} {s : State} (h : s.InUpdate c) : s.seq ≠ Seq.idle := by
  rcases h.next with ⟨hs, _⟩ | ⟨hs, _⟩ <;> simp [hs]

/-- A reset is taken in any state, and otherwise each of the invariant's three kinds of state has its step. -/
theorem State.Inv.step_answers {s : State} (h : s.Inv Config.hardware) : ∃ t, step s = .next t := by
  by_cases hr : s.NoReset
  · rcases h with ⟨hidle, hA⟩ | ⟨hw, hU⟩ | hung
    · exact hidle.step_answers hA
    · rw [step_microStep hr hw hU.seq_ne_idle]
      exact hU.microStep_answers hw
    · exact ⟨s, step_waiting hr hung.waiting⟩
  · obtain ⟨rest, hi⟩ : ∃ rest, s.inputs = .reset :: rest := by simpa [State.NoReset] using hr
    exact ⟨_, step_reset hi⟩

/-- Settles O12: SEQ = 11 is the code of no micro-operation, a COMBINE at the end of the block has nothing to read, and
the invariant excludes both. -/
theorem onlyUnreachableStatesFault : Obligations.OnlyUnreachableStatesFault := by
  refine ⟨fun s hr hw hs => ?_, fun s hB => ?_, fun s h => h.step_answers⟩
  · rw [step_microStep hr hw (by rw [hs]; decide)]
    exact microStep_unused (by rw [hs]; decide) (by rw [hs]; decide)
  · rw [exec_combine, combineOp_atBlockEnd hB]

end Sys2Proof.Machine
end

section
/-! PROOFS. Reset (70_reset_and_hazards R230), the registers before the first NEW (R231), and a call of the primitive
that is never answered (R236). -/

namespace Sys2Proof.Machine

/-! ## NEW, by its checks and the answer to its one call -/

section
variable {c : Config} {s : State} {tag key iv : Bytes} {k : Key} {seed : Counter}

theorem newCommand_refused {status : Status} (h : newOperands tag key iv = .error status) :
    newCommand c tag key iv s = s.accept.raise status false := by
  simp only [newCommand, h]

/-- Past its checks NEW is its REFILL and what follows it (40_construction R100). -/
theorem newCommand_accepted (h : newOperands tag key iv = .ok (k, seed)) :
    newCommand c tag key iv s = ((s.accept.loadSeed k seed).refill c false).afterFirstRefill := by
  simp only [newCommand, h]

theorem newCommand_built (h : newOperands tag key iv = .ok (k, seed))
    (ha : s.answerAt c 0 = .returns c.blockSize) :
    newCommand c tag key iv s = State.constructed
      { (s.accept.loadSeed k seed).called c with
        inst := (s.accept.loadSeed k seed).inst.loadBlock (blockOf c seed k) } := by
  have ha' : (s.accept.loadSeed k seed).answerAt c 0 = .returns c.blockSize := ha
  rw [newCommand_accepted h, State.refill_good false ha']
  simp [State.afterFirstRefill, ha']

theorem newCommand_failed (h : newOperands tag key iv = .ok (k, seed)) (hf : s.CallFails c 0) :
    newCommand c tag key iv s =
      ((s.accept.loadSeed k seed).called c).raise .keystreamGenerationFailure false := by
  have hf' : (s.accept.loadSeed k seed).CallFails c 0 := hf
  rw [newCommand_accepted h, State.refill_failed false hf']
  simp [State.afterFirstRefill]

theorem newCommand_unanswered (h : newOperands tag key iv = .ok (k, seed)) (hn : s.answerAt c 0 = .never) :
    newCommand c tag key iv s = (s.accept.loadSeed k seed).called c := by
  have hn' : (s.accept.loadSeed k seed).answerAt c 0 = .never := hn
  rw [newCommand_accepted h, State.refill_never false hn']
  simp [State.afterFirstRefill, hn']

end

/-! ## A call that is never answered -/

/-- A run stops at the first call that is not answered, if its data reach that call. -/
theorem RunEnds.waits {c : Config} {r : Instance} {s t : State} {m : Nat} (h : RunEnds c r s t)
    (hm : m < s.inst.boundaries c s.rem.length) (hg : s.AnswersGood c m) (hn : s.answerAt c m = .never) :
    t.waiting = true ∧ t.results = s.results := by
  rcases h.ends with ⟨good, _⟩ | ⟨k, _, good, _, stop⟩
  · exact absurd (good.le_of_stops (.inr hn)) hm.not_ge
  · obtain rfl : k = m := le_antisymm (good.le_of_stops (.inr hn)) (hg.le_of_stops (stop.imp And.left And.left))
    rcases stop with ⟨hf, _⟩ | ⟨_, hw, _, _, _, hres⟩
    · exact absurd hn hf.ne_never
    · exact ⟨hw, hres⟩

theorem core_run_waiting {s : State} (hr : s.NoReset) (hw : s.waiting = true) (n : Nat) :
    Sys2Proof.core.run n s = .next s := by
  induction n with
  | zero => exact core_run_zero s
  | succ n ih => rw [core_run_next n (step_waiting hr hw), ih]

/-- Settles O13: NEW waits at its one call and UPDATE at the call that is not answered; each later step of a waiting
engine is a wait, by induction on their number. -/
theorem unansweredCallNeverCompletes : Obligations.UnansweredCallNeverCompletes := by
  refine ⟨fun s dir key iv hk hv hn => ?_, fun s data m hL _ hc hm hd hg hn => ?_, fun s n hw hr => ?_⟩
  · have ha : (s.accept.loadSeed ⟨key, hk⟩ (fromLe64 iv)).answerAt Config.hardware 0 = .never := hn
    refine ⟨_, exec_new .., ?_⟩
    rw [newCommand_unanswered (newOperands_ok hk hv) hn]
    exact ⟨by simp [ha], rfl⟩
  · obtain ⟨t, ht, ends⟩ := runSequencer_ends s.inst (s.startUpdate data) (State.startUpdate_combining hc hd) rfl
      (2 * data.length) le_rfl
    exact ⟨t, by rw [exec_update, updateCommand_loop hL hd, ht], ends.waits hm hg hn⟩
  · exact core_run_waiting hr hw n

/-! ## The registers while VALID is 0 -/

/-- The outside cannot tell `t'` from `t`: the results, the calls and the flags are the same, and where VALID is 1 so is
everything else. -/
structure State.Indistinct (t t' : State) : Prop where
  results : t'.results = t.results
  requests : t'.requests = t.requests
  valid : t'.inst.valid = t.inst.valid
  failed : t'.inst.failed = t.inst.failed
  eq : t.inst.valid = true → t' = t

section
variable {s : State} {r : Instance} (hv : s.inst.valid = false) (hr : r.valid = false)
  (hf : r.failed = s.inst.failed)
include hv hr hf

/-- States with the flags of `s` and of `r`, so with VALID = 0. -/
theorem State.Indistinct.of_registers {t t' : State} (ht : t.inst.valid = s.inst.valid)
    (htf : t.inst.failed = s.inst.failed) (ht' : t'.inst.valid = r.valid) (htf' : t'.inst.failed = r.failed)
    (results : t'.results = t.results) (requests : t'.requests = t.requests) : t.Indistinct t' where
  results := results
  requests := requests
  valid := by rw [ht, ht', hv, hr]
  failed := by rw [htf, htf', hf]
  eq h := by cases (ht.trans hv).symm.trans h

/-- A NEW that succeeds writes every register; one that does not leaves the flags. -/
theorem newCommand_indistinct (c : Config) (tag key iv : Bytes) :
    (newCommand c tag key iv s).Indistinct (newCommand c tag key iv { s with inst := r }) := by
  rcases newCommand_cases c tag key iv s with
    ⟨status, _, ho, e⟩ | ⟨k, seed, ho, ⟨ha, e⟩ | ⟨hfails, e⟩ | ⟨hn, e⟩⟩ <;> rw [e]
  · rw [newCommand_refused ho]
    exact .of_registers hv hr hf rfl rfl rfl rfl rfl rfl
  · rw [newCommand_built ho (s := { s with inst := r }) ha]
    exact ⟨rfl, rfl, rfl, rfl, fun _ => rfl⟩
  · rw [newCommand_failed ho (s := { s with inst := r }) hfails]
    exact .of_registers hv hr hf rfl rfl rfl rfl rfl rfl
  · rw [newCommand_unanswered ho (s := { s with inst := r }) hn]
    exact .of_registers hv hr hf rfl rfl rfl rfl rfl rfl

/-- A command of the host at other registers ends, and ends alike. -/
theorem exec_indistinct {i : Instr} {t : State} (hi : i.hostIssuable = true) (h : exec i s = .next t) :
    ∃ t', exec i { s with inst := r } = .next t' ∧ t.Indistinct t' := by
  cases i with
  | new dir tag key iv =>
    rw [exec_new] at h
    cases h
    exact ⟨_, exec_new .., newCommand_indistinct hv hr hf ..⟩
  | update data =>
    rw [exec_update, updateCommand_noInstance data hv] at h
    cases h
    exact ⟨_, updateCommand_noInstance data hr, .of_registers hv hr hf rfl rfl rfl rfl rfl rfl⟩
  | combine => cases hi
  | refill => cases hi

end

/-- Settles O19: what NEW does rests on no register, and UPDATE looks at VALID first. -/
theorem registersBeforeNewAreUnobservable : Obligations.RegistersBeforeNewAreUnobservable := by
  intro s t i r hi hv hr hf h
  obtain ⟨t', ht', results, requests, valid, failed, heq⟩ := exec_indistinct hv hr hf hi h
  exact ⟨t', ht', results, requests, valid, failed, heq⟩

/-! ## Reset -/

/-- Settles O10: after the reset the engine is between commands with VALID = 0, so it waits and an UPDATE is refused. -/
theorem resetAbandonsTheCommand : Obligations.ResetAbandonsTheCommand := by
  intro s rest hinputs
  have hidle := s.afterReset_idle rest
  exact ⟨_, step_reset hinputs, rfl, rfl, hidle, rfl, rfl, rfl, fun hrest => step_noInput hrest hidle.seq,
    fun data => updateWithoutInstance _ data hidle rfl⟩

end Sys2Proof.Machine
end
